-- ==== Sys2Proof/Word.lean ====
section
/-! DEFINITION. The word types of the machine: bytes, 16-bit words, register and key numbers (00_scope.md rules R8, R9). -/

namespace Sys2Proof

/-- An 8-bit value: a register, a memory byte, a timer, the constant NN (10_state.md R20, 30_encoding.md R71). -/
abbrev Byte := BitVec 8

/-- A 16-bit value: an opcode word, `pc`, `I`, a stack entry (10_state.md R25, R26, R29). -/
abbrev Word := BitVec 16

/-- The 12-bit absolute address NNN of an instruction (30_encoding.md R71). -/
abbrev Addr12 := BitVec 12

/-- The number of a general register, 0..15 (10_state.md R20, R21). -/
abbrev Reg := Fin 16

/-- The number of a logical key, 0..15 (44_input_timers.md R160). -/
abbrev Key := Fin 16

end Sys2Proof
end

