-- ==== Sys2Proof/Syntax.lean ====
section
/-! DEFINITION. The 34 instruction forms (30_encoding.md rule R76), one constructor per row of spec/opcode_table.json. -/

namespace Sys2Proof

/-- An instruction: a form with its operands. Register operands are the 4-bit selectors X and Y used directly as indices
(30_encoding.md R73), constants keep the width of their field, and `draw`'s N is a row count. -/
inductive Instr where
  /-- `00E0`, 43_display.md R150 -/
  | clearScreen
  /-- `00EE`, 40_control_flow.md R100 -/
  | ret
  /-- `1NNN`, 40_control_flow.md R101 -/
  | jump (nnn : Addr12)
  /-- `2NNN`, 40_control_flow.md R102 -/
  | call (nnn : Addr12)
  /-- `3XNN`, 40_control_flow.md R105 -/
  | skipEqConst (x : Reg) (nn : Byte)
  /-- `4XNN`, 40_control_flow.md R106 -/
  | skipNeConst (x : Reg) (nn : Byte)
  /-- `5XY0`, 40_control_flow.md R107 -/
  | skipEqReg (x y : Reg)
  /-- `9XY0`, 40_control_flow.md R108 -/
  | skipNeReg (x y : Reg)
  /-- `6XNN`, 41_alu.md R120 -/
  | loadConst (x : Reg) (nn : Byte)
  /-- `7XNN`, 41_alu.md R121 -/
  | addConst (x : Reg) (nn : Byte)
  /-- `8XY0`, 41_alu.md R123 -/
  | copy (x y : Reg)
  /-- `8XY1` (or), 41_alu.md R124 -/
  | bitOr (x y : Reg)
  /-- `8XY2` (and), 41_alu.md R125 -/
  | bitAnd (x y : Reg)
  /-- `8XY3` (xor), 41_alu.md R126 -/
  | bitXor (x y : Reg)
  /-- `8XY4`, 41_alu.md R127 -/
  | addWithCarry (x y : Reg)
  /-- `8XY5`, 41_alu.md R128 -/
  | subWithBorrow (x y : Reg)
  /-- `8XY6`, 41_alu.md R129 -/
  | shiftRight (x y : Reg)
  /-- `8XY7`, 41_alu.md R130 -/
  | subReverseWithBorrow (x y : Reg)
  /-- `8XYE`, 41_alu.md R131 -/
  | shiftLeft (x y : Reg)
  /-- `ANNN`, 42_index_memory.md R140 -/
  | loadIndex (nnn : Addr12)
  /-- `BNNN`, 40_control_flow.md R104 -/
  | jumpPlusV0 (nnn : Addr12)
  /-- `CXNN`, 41_alu.md R132 -/
  | randomMasked (x : Reg) (nn : Byte)
  /-- `DXYN`, 43_display.md R152; `n` is the number of sprite rows -/
  | draw (x y : Reg) (n : Nat)
  /-- `EX9E`, 44_input_timers.md R162 -/
  | skipIfKeyDown (x : Reg)
  /-- `EXA1`, 44_input_timers.md R163 -/
  | skipIfKeyUp (x : Reg)
  /-- `FX07`, 44_input_timers.md R166 -/
  | loadFromDelayTimer (x : Reg)
  /-- `FX0A`, 44_input_timers.md R164 -/
  | waitForKey (x : Reg)
  /-- `FX15`, 44_input_timers.md R167 -/
  | storeToDelayTimer (x : Reg)
  /-- `FX18`, 44_input_timers.md R168 -/
  | storeToSoundTimer (x : Reg)
  /-- `FX1E`, 42_index_memory.md R141 -/
  | addIndexFromReg (x : Reg)
  /-- `FX29`, 42_index_memory.md R142 -/
  | loadIndexFont (x : Reg)
  /-- `FX33`, 42_index_memory.md R143 -/
  | storeBcd (x : Reg)
  /-- `FX55`, 42_index_memory.md R147 -/
  | storeRegisters (x : Reg)
  /-- `FX65`, 42_index_memory.md R148 -/
  | loadRegisters (x : Reg)
deriving DecidableEq, Repr

end Sys2Proof
end

