-- ==== Sys2Proof/WellFormed.lean ====
section
/-! DEFINITION. Which terms of `Instr` an opcode word can spell. Registers and constants are bounded by their types; the one
operand that is a plain number is the row count of `draw`. -/

namespace Sys2Proof

/-- The row count of `draw` is a 4-bit literal, 0..15 (30_encoding.md R71, R73). Every other operand is bounded by its
type, so every other term is well formed. -/
def Instr.wellFormed : Instr → Bool
  | .draw _ _ n => decide (n < 16)
  | _ => true

end Sys2Proof
end

