-- ==== Sys2Proof/Decode.lean ====
section
/-! DEFINITION. Decoding a word (30_encoding.md rules R70 to R76) and encoding an instruction, both from the spec's tables. -/

namespace Sys2Proof

/-! ### Fields of an opcode word (30_encoding.md R71) -/

/-- Group: `op[15:12]`. -/
def fieldG (op : Word) : BitVec 4 := op.extractLsb' 12 4

/-- First register selector: `op[11:8]`. -/
def fieldX (op : Word) : Reg := (op.extractLsb' 8 4).toFin

/-- Second register selector: `op[7:4]`. -/
def fieldY (op : Word) : Reg := (op.extractLsb' 4 4).toFin

/-- 4-bit literal or sub-opcode: `op[3:0]`. -/
def fieldN (op : Word) : BitVec 4 := op.extractLsb' 0 4

/-- 8-bit literal or sub-opcode: `op[7:0]`. -/
def fieldNN (op : Word) : Byte := op.extractLsb' 0 8

/-- 12-bit address: `op[11:0]`. -/
def fieldNNN (op : Word) : Addr12 := op.extractLsb' 0 12

/-! ### Decoding -/

/-- Why bytes are not an instruction. -/
inductive DecodeReject where
  /-- The word is none of the 34 forms (30_encoding.md R82); the machine then takes the fault `InvalidOpcode`. -/
  | invalidOpcode
  /-- Fewer than the two bytes of a word were given (30_encoding.md R70). -/
  | truncated
deriving DecidableEq, Repr

/-- Group 8: the sub-opcode is N (30_encoding.md R75). -/
def decodeArith (op : Word) : Except DecodeReject Instr :=
  match (fieldN op).toNat with
  | 0x0 => .ok (.copy (fieldX op) (fieldY op))
  | 0x1 => .ok (.bitOr (fieldX op) (fieldY op))
  | 0x2 => .ok (.bitAnd (fieldX op) (fieldY op))
  | 0x3 => .ok (.bitXor (fieldX op) (fieldY op))
  | 0x4 => .ok (.addWithCarry (fieldX op) (fieldY op))
  | 0x5 => .ok (.subWithBorrow (fieldX op) (fieldY op))
  | 0x6 => .ok (.shiftRight (fieldX op) (fieldY op))
  | 0x7 => .ok (.subReverseWithBorrow (fieldX op) (fieldY op))
  | 0xE => .ok (.shiftLeft (fieldX op) (fieldY op))
  | _ => .error .invalidOpcode

/-- Group E: the sub-opcode is the whole byte NN (30_encoding.md R75). -/
def decodeKeySkip (op : Word) : Except DecodeReject Instr :=
  match (fieldNN op).toNat with
  | 0x9E => .ok (.skipIfKeyDown (fieldX op))
  | 0xA1 => .ok (.skipIfKeyUp (fieldX op))
  | _ => .error .invalidOpcode

/-- Group F: the sub-opcode is the whole byte NN (30_encoding.md R75). -/
def decodeMisc (op : Word) : Except DecodeReject Instr :=
  match (fieldNN op).toNat with
  | 0x07 => .ok (.loadFromDelayTimer (fieldX op))
  | 0x0A => .ok (.waitForKey (fieldX op))
  | 0x15 => .ok (.storeToDelayTimer (fieldX op))
  | 0x18 => .ok (.storeToSoundTimer (fieldX op))
  | 0x1E => .ok (.addIndexFromReg (fieldX op))
  | 0x29 => .ok (.loadIndexFont (fieldX op))
  | 0x33 => .ok (.storeBcd (fieldX op))
  | 0x55 => .ok (.storeRegisters (fieldX op))
  | 0x65 => .ok (.loadRegisters (fieldX op))
  | _ => .error .invalidOpcode

/-- `Decode(op)` of 30_encoding.md R75: the group selects the form or the second-level selector. Total on all words. The
opcode numbers are the spec's table R76 (PRESUMED there, log 12); group 0 is matched on the whole word (log 13). -/
def decode (op : Word) : Except DecodeReject Instr :=
  match (fieldG op).toNat with
  | 0x0 =>
    if op = 0x00E0 then .ok .clearScreen
    else if op = 0x00EE then .ok .ret
    else .error .invalidOpcode
  | 0x1 => .ok (.jump (fieldNNN op))
  | 0x2 => .ok (.call (fieldNNN op))
  | 0x3 => .ok (.skipEqConst (fieldX op) (fieldNN op))
  | 0x4 => .ok (.skipNeConst (fieldX op) (fieldNN op))
  | 0x5 => if fieldN op = 0 then .ok (.skipEqReg (fieldX op) (fieldY op)) else .error .invalidOpcode
  | 0x6 => .ok (.loadConst (fieldX op) (fieldNN op))
  | 0x7 => .ok (.addConst (fieldX op) (fieldNN op))
  | 0x8 => decodeArith op
  | 0x9 => if fieldN op = 0 then .ok (.skipNeReg (fieldX op) (fieldY op)) else .error .invalidOpcode
  | 0xA => .ok (.loadIndex (fieldNNN op))
  | 0xB => .ok (.jumpPlusV0 (fieldNNN op))
  | 0xC => .ok (.randomMasked (fieldX op) (fieldNN op))
  | 0xD => .ok (.draw (fieldX op) (fieldY op) (fieldN op).toNat)
  | 0xE => decodeKeySkip op
  | 0xF => decodeMisc op
  | _ => .error .invalidOpcode

/-- The opcode word of two consecutive bytes: the byte at the lower address is the high byte (20_memory.md R52). -/
def wordOfBytes (hi lo : Byte) : Word := hi ++ lo

/-- The high byte of a word, stored at the lower address (20_memory.md R52). -/
def highByte (w : Word) : Byte := w.extractLsb' 8 8

/-- The low byte of a word, stored at the higher address (20_memory.md R52). -/
def lowByte (w : Word) : Byte := w.extractLsb' 0 8

/-- Decode the instruction at the head of a byte stream and return the rest of the stream. -/
def decodeBytes : List Byte → Except DecodeReject (Instr × List Byte)
  | hi :: lo :: rest =>
    match decode (wordOfBytes hi lo) with
    | .ok i => .ok (i, rest)
    | .error e => .error e
  | _ => .error .truncated

/-! ### Encoding (formats of 30_encoding.md R72, opcode numbers of R76) -/

/-- Format NNN: group, then the address. -/
def formatNNN (g : BitVec 4) (nnn : Addr12) : Word := g ++ nnn

/-- Formats XNN and XSS: group, register X, then the constant or the sub-opcode byte. -/
def formatXNN (g : BitVec 4) (x : Reg) (nn : Byte) : Word := g ++ (BitVec.ofFin x : BitVec 4) ++ nn

/-- Format XYN: group, registers X and Y, then the sub-opcode or the literal N. -/
def formatXYN (g : BitVec 4) (x y : Reg) (n : BitVec 4) : Word :=
  g ++ (BitVec.ofFin x : BitVec 4) ++ (BitVec.ofFin y : BitVec 4) ++ n

/-- The word of an instruction. For a term that is not well formed (a row count above 15) it keeps the count's low bits. -/
def encode : Instr → Word
  | .clearScreen => 0x00E0
  | .ret => 0x00EE
  | .jump nnn => formatNNN 0x1 nnn
  | .call nnn => formatNNN 0x2 nnn
  | .skipEqConst x nn => formatXNN 0x3 x nn
  | .skipNeConst x nn => formatXNN 0x4 x nn
  | .skipEqReg x y => formatXYN 0x5 x y 0x0
  | .skipNeReg x y => formatXYN 0x9 x y 0x0
  | .loadConst x nn => formatXNN 0x6 x nn
  | .addConst x nn => formatXNN 0x7 x nn
  | .copy x y => formatXYN 0x8 x y 0x0
  | .bitOr x y => formatXYN 0x8 x y 0x1
  | .bitAnd x y => formatXYN 0x8 x y 0x2
  | .bitXor x y => formatXYN 0x8 x y 0x3
  | .addWithCarry x y => formatXYN 0x8 x y 0x4
  | .subWithBorrow x y => formatXYN 0x8 x y 0x5
  | .shiftRight x y => formatXYN 0x8 x y 0x6
  | .subReverseWithBorrow x y => formatXYN 0x8 x y 0x7
  | .shiftLeft x y => formatXYN 0x8 x y 0xE
  | .loadIndex nnn => formatNNN 0xA nnn
  | .jumpPlusV0 nnn => formatNNN 0xB nnn
  | .randomMasked x nn => formatXNN 0xC x nn
  | .draw x y n => formatXYN 0xD x y (BitVec.ofNat 4 n)
  | .skipIfKeyDown x => formatXNN 0xE x 0x9E
  | .skipIfKeyUp x => formatXNN 0xE x 0xA1
  | .loadFromDelayTimer x => formatXNN 0xF x 0x07
  | .waitForKey x => formatXNN 0xF x 0x0A
  | .storeToDelayTimer x => formatXNN 0xF x 0x15
  | .storeToSoundTimer x => formatXNN 0xF x 0x18
  | .addIndexFromReg x => formatXNN 0xF x 0x1E
  | .loadIndexFont x => formatXNN 0xF x 0x29
  | .storeBcd x => formatXNN 0xF x 0x33
  | .storeRegisters x => formatXNN 0xF x 0x55
  | .loadRegisters x => formatXNN 0xF x 0x65

/-- The two bytes of an instruction in memory order. -/
def encodeBytes (i : Instr) : List Byte := [highByte (encode i), lowByte (encode i)]

/-! ### The opcode map as data (30_encoding.md R76) -/

/-- A row of the opcode map: a word `w` is the form iff `w &&& mask = matchWord`. -/
structure OpcodeRow where
  mnemonic : String
  matchWord : Word
  mask : Word
deriving DecidableEq, Repr

/-- Rows 1 to 10 of R76: the fixed words, the transfers, the constant and register skips, the constant forms. -/
def opcodeRowsControl : List OpcodeRow :=
  [⟨"clear-screen", 0x00E0, 0xFFFF⟩, ⟨"return", 0x00EE, 0xFFFF⟩, ⟨"jump", 0x1000, 0xF000⟩, ⟨"call", 0x2000, 0xF000⟩,
   ⟨"skip-eq-const", 0x3000, 0xF000⟩, ⟨"skip-ne-const", 0x4000, 0xF000⟩, ⟨"skip-eq-reg", 0x5000, 0xF00F⟩,
   ⟨"skip-ne-reg", 0x9000, 0xF00F⟩, ⟨"load-const", 0x6000, 0xF000⟩, ⟨"add-const", 0x7000, 0xF000⟩]

/-- Rows 11 to 19 of R76: the arithmetic group. -/
def opcodeRowsArith : List OpcodeRow :=
  [⟨"copy", 0x8000, 0xF00F⟩, ⟨"or", 0x8001, 0xF00F⟩, ⟨"and", 0x8002, 0xF00F⟩, ⟨"xor", 0x8003, 0xF00F⟩,
   ⟨"add-with-carry", 0x8004, 0xF00F⟩, ⟨"sub-with-borrow", 0x8005, 0xF00F⟩, ⟨"shift-right", 0x8006, 0xF00F⟩,
   ⟨"sub-reverse-with-borrow", 0x8007, 0xF00F⟩, ⟨"shift-left", 0x800E, 0xF00F⟩]

/-- Rows 20 to 25 of R76: the index, random and draw forms and the key skips. -/
def opcodeRowsIndex : List OpcodeRow :=
  [⟨"load-index", 0xA000, 0xF000⟩, ⟨"jump-plus-v0", 0xB000, 0xF000⟩, ⟨"random-masked", 0xC000, 0xF000⟩,
   ⟨"draw", 0xD000, 0xF000⟩, ⟨"skip-if-key-down", 0xE09E, 0xF0FF⟩, ⟨"skip-if-key-up", 0xE0A1, 0xF0FF⟩]

/-- Rows 26 to 34 of R76: group F. -/
def opcodeRowsMisc : List OpcodeRow :=
  [⟨"load-from-delay-timer", 0xF007, 0xF0FF⟩, ⟨"wait-for-key", 0xF00A, 0xF0FF⟩, ⟨"store-to-delay-timer", 0xF015, 0xF0FF⟩,
   ⟨"store-to-sound-timer", 0xF018, 0xF0FF⟩, ⟨"add-index-from-reg", 0xF01E, 0xF0FF⟩, ⟨"load-index-font", 0xF029, 0xF0FF⟩,
   ⟨"store-bcd", 0xF033, 0xF0FF⟩, ⟨"store-registers", 0xF055, 0xF0FF⟩, ⟨"load-registers", 0xF065, 0xF0FF⟩]

/-- The complete opcode map, 34 rows in the order of R76. The decoder does not use it: it is the second, independent
reading of the spec that the decoder is held against. -/
def opcodeTable : List OpcodeRow := opcodeRowsControl ++ opcodeRowsArith ++ opcodeRowsIndex ++ opcodeRowsMisc

/-- The form's name, which the spec uses as its mnemonic (30_encoding.md R86). -/
def Instr.mnemonic : Instr → String
  | .clearScreen => "clear-screen"
  | .ret => "return"
  | .jump _ => "jump"
  | .call _ => "call"
  | .skipEqConst _ _ => "skip-eq-const"
  | .skipNeConst _ _ => "skip-ne-const"
  | .skipEqReg _ _ => "skip-eq-reg"
  | .skipNeReg _ _ => "skip-ne-reg"
  | .loadConst _ _ => "load-const"
  | .addConst _ _ => "add-const"
  | .copy _ _ => "copy"
  | .bitOr _ _ => "or"
  | .bitAnd _ _ => "and"
  | .bitXor _ _ => "xor"
  | .addWithCarry _ _ => "add-with-carry"
  | .subWithBorrow _ _ => "sub-with-borrow"
  | .shiftRight _ _ => "shift-right"
  | .subReverseWithBorrow _ _ => "sub-reverse-with-borrow"
  | .shiftLeft _ _ => "shift-left"
  | .loadIndex _ => "load-index"
  | .jumpPlusV0 _ => "jump-plus-v0"
  | .randomMasked _ _ => "random-masked"
  | .draw _ _ _ => "draw"
  | .skipIfKeyDown _ => "skip-if-key-down"
  | .skipIfKeyUp _ => "skip-if-key-up"
  | .loadFromDelayTimer _ => "load-from-delay-timer"
  | .waitForKey _ => "wait-for-key"
  | .storeToDelayTimer _ => "store-to-delay-timer"
  | .storeToSoundTimer _ => "store-to-sound-timer"
  | .addIndexFromReg _ => "add-index-from-reg"
  | .loadIndexFont _ => "load-index-font"
  | .storeBcd _ => "store-bcd"
  | .storeRegisters _ => "store-registers"
  | .loadRegisters _ => "load-registers"

/-! ### The host's reading of a table word -/

/-- The one word of an instruction whose table bits are `w`: bits above `nbits` are 0 (every instruction is one 16-bit word,
30_encoding.md R70). -/
def tableWord (nbits w : Nat) : Word := BitVec.ofNat 16 (w % 2 ^ nbits)

/-- The instruction the decoder reads from an instruction whose bits are `w`, numbered as spec/opcode_table.json numbers
them: the word is laid out high byte first and decoded from its bytes. No instruction is longer than 16 bits (log 26). -/
def decodeTableWord (nbits w : Nat) : Option Instr :=
  if nbits ≤ 16 then
    match decodeBytes [highByte (tableWord nbits w), lowByte (tableWord nbits w)] with
    | .ok (i, _) => some i
    | .error _ => none
  else none

end Sys2Proof
end

