-- ==== Sys2Proof/Config.lean ====
section
/-! DEFINITION. What the machine's surroundings fix: the destination policy, and the free inputs of the environment. -/

namespace Sys2Proof

/-- Parameter `VF_DEST_POLICY` (00_scope.md R5, 41_alu.md R122): whether a group-8 form may name register 15 as its
destination. The default, and the only behaviour the source documents, is `fault`. -/
inductive VfDestPolicy where
  | fault
  | permit
deriving DecidableEq, Repr, Inhabited

/-- Which agent takes the next step (00_scope.md R6): the core (an instruction slot or a wait slot, whichever its run
state calls for) or the timer tick. -/
inductive Agent where
  | slot
  | tick
deriving DecidableEq, Repr, Inhabited

/-- What the environment presents at one step: the ports `slot`/`tick`, `key_level[15:0]` and `rand[7:0]` of
60_exceptions.md R203, and the preference of the `KEY_ARBITER` (44_input_timers.md R165). A tick ignores all but `agent`. -/
structure Input where
  /-- The agent that steps. -/
  agent : Agent
  /-- The level of each logical key at this sample, bit k = key k (10_state.md R34). -/
  keyLevel : BitVec 16
  /-- The byte a random-masked instruction of this slot consumes (41_alu.md R132). -/
  rand : Byte
  /-- The key the arbiter prefers when several are freshly pressed at one sample. -/
  pick : Key
deriving DecidableEq, Repr, Inhabited

/-- FREE VALUE (DESIGN CHOICE, log 1): what the environment presents when no input is listed. It has no body, so nothing
can be proved of it: neither the schedule (00_scope.md R7), nor a key level (D21), nor a random byte (D15), nor the
arbiter's choice (D20). -/
opaque Config.input (n : Nat) : Input

end Sys2Proof
end

