-- ==== Sys2Proof/Machine/State.lean ====
section
/-! DEFINITION. The state of the machine (10_state.md), the reasons it stops, and the state after reset. -/

namespace Sys2Proof.Machine

/-- The five fault kinds of 60_exceptions.md R180; the list is closed. -/
inductive FaultKind where
  /-- The word is none of the 34 forms. -/
  | invalidOpcode
  /-- A fetch, target or data access outside its bound. -/
  | addressOutOfRange
  /-- A call with sixteen live entries. -/
  | stackOverflow
  /-- A return with no live entry. -/
  | stackUnderflow
  /-- Register 15 as a group-8 destination under the policy `fault`, or a key or font register above 15. -/
  | invalidRegisterOperand
deriving DecidableEq, Repr

/-- The run state (10_state.md R35). -/
inductive RunState where
  /-- The core takes instruction slots. -/
  | running
  /-- The stream is suspended by wait-for-key, awaiting a key for register `x`. -/
  | awaitKey (x : Reg)
  /-- Terminal: no agent steps (60_exceptions.md R190, R192). -/
  | faulted (k : FaultKind)
deriving DecidableEq, Repr

/-- Why a step has no next state. -/
inductive Fault where
  /-- Raised by `step` alone, in the run state `Faulted k`: the machine has halted and no agent steps (10_state.md R35, R47;
  60_exceptions.md R190). Entering `Faulted k` is itself a next state, so this hides nothing. Safe. -/
  | halted (k : FaultKind)
deriving DecidableEq, Repr

/-- Why the model has no meaning to give. -/
inductive Refusal where
  /-- Raised only by an arm of `exec` whose instruction has no meaning yet; no arm raises it. Safe. -/
  | notModelled (mnemonic : String)
deriving DecidableEq, Repr

/-- The framebuffer: `fb[x][y]`, 64 columns of 32 cells, true = lit (10_state.md R33). -/
abbrev Framebuffer := Vector (Vector Bool 32) 64

/-- The memory: the cells that differ from the reset image, addresses strictly rising (20_memory.md R50; log 8). -/
abbrev Memory := List Host.Cell

/-- The machine's state. The fields down to `waitBase` are the spec's own (10_state.md section 1); `vfDestPolicy` and `rand`
are its parameter and its port, held here because a step takes nothing but a state (logs 7 and 2); `agenda` and `inputIndex`
are the model's own, and say what the environment presents next (log 1). -/
structure State where
  /-- `V[0..15]` (R20). -/
  regs : Vector Byte 16
  /-- The index register `I` (R25). -/
  index : Word
  /-- The program counter (R26). -/
  pc : Word
  /-- `stack[0..15]` (R29). -/
  stack : Vector Word 16
  /-- The stack pointer, 0..16 (R29). -/
  sp : Fin 17
  /-- The delay timer (R30). -/
  dt : Byte
  /-- The sound timer (R31). -/
  st : Byte
  /-- The tone gate latch (R32). -/
  tone : Bool
  /-- The framebuffer (R33). -/
  fb : Framebuffer
  /-- Memory (R37). -/
  mem : Memory
  /-- The run state (R35). -/
  run : RunState
  /-- The key levels of the most recent sample, bit k = `keys[k]` (R34). -/
  keys : BitVec 16
  /-- `wait_base`: the levels a fresh press is judged against (R38). -/
  waitBase : BitVec 16
  /-- Port `rand`: the byte presented to the slot in progress (60_exceptions.md R203), a free value. -/
  rand : Byte
  /-- Parameter `VF_DEST_POLICY` (41_alu.md R122). -/
  vfDestPolicy : VfDestPolicy
  /-- What the environment presents at the coming steps, the next one first. -/
  agenda : List Input
  /-- How many free inputs have been taken from `Config.input`. -/
  inputIndex : Nat
deriving DecidableEq, Repr

/-- The outcome of an instruction or a step. -/
abbrev Result := Host.Outcome State Fault Refusal

/-- The machine right after reset with the empty ROM (70_reset_and_hazards.md R210, R211): registers and `I` zero, `pc` at
0x200, an empty stack, a clear screen, memory at its reset image. `dt`, `st`, `tone`, the stack entries and `run` have the
values the spec decides (log 5); `keys`, `waitBase`, `rand`, `agenda` and `inputIndex` have none in the spec (logs 4 and 6). -/
def State.reset : State where
  regs := Vector.replicate 16 0
  index := 0
  pc := 0x200
  stack := Vector.replicate 16 0
  sp := 0
  dt := 0
  st := 0
  tone := false
  fb := Vector.replicate 64 (Vector.replicate 32 false)
  mem := []
  run := .running
  keys := 0
  waitBase := 0
  rand := 0
  vfDestPolicy := .fault
  agenda := []
  inputIndex := 0

end Sys2Proof.Machine
end

