-- ==== Sys2Proof/Machine/Memory.lean ====
section
/-! DEFINITION. The memory space (20_memory.md): its reset image, byte reads and writes, and its canonical form. -/

namespace Sys2Proof.Machine

/-- `MEM_SIZE` (00_scope.md R5). -/
def memSize : Nat := 4096

/-- `FONT_BASE` (00_scope.md R5). -/
def fontBase : Nat := 0x000

/-- `PROG_BASE` (00_scope.md R5). -/
def progBase : Nat := 0x200

/-- `ROM_MAX` (00_scope.md R5). -/
def romMax : Nat := 3584

/-- The highest legal fetch address (10_state.md R27). -/
def maxFetch : Nat := 4094

/-- The default value of the parameter `FONT` (20_memory.md R56; PRESUMED there, log 8): digits 0 to 7. -/
def fontLow : List Byte :=
  [0xF0, 0x90, 0x90, 0x90, 0xF0, 0x20, 0x60, 0x20, 0x20, 0x70, 0xF0, 0x10, 0xF0, 0x80, 0xF0, 0xF0, 0x10, 0xF0, 0x10, 0xF0,
   0x90, 0x90, 0xF0, 0x10, 0x10, 0xF0, 0x80, 0xF0, 0x10, 0xF0, 0xF0, 0x80, 0xF0, 0x90, 0xF0, 0xF0, 0x10, 0x20, 0x40, 0x40]

/-- The default value of the parameter `FONT`: digits 8 to F. -/
def fontHigh : List Byte :=
  [0xF0, 0x90, 0xF0, 0x90, 0xF0, 0xF0, 0x90, 0xF0, 0x10, 0xF0, 0xF0, 0x90, 0xF0, 0x90, 0x90, 0xE0, 0x90, 0xE0, 0x90, 0xE0,
   0xF0, 0x80, 0x80, 0x80, 0xF0, 0xE0, 0x90, 0x90, 0x90, 0xE0, 0xF0, 0x80, 0xF0, 0x80, 0xF0, 0xF0, 0x80, 0xF0, 0x80, 0x80]

/-- The default font, 16 glyphs of 5 bytes. -/
def fontTable : List Byte := fontLow ++ fontHigh

/-- The reset image of the empty ROM (70_reset_and_hazards.md R211): zero, with the font copied to `FONT_BASE`. This is what
an unlisted address reads as. -/
def resetByte (a : Nat) : Byte :=
  if fontBase ≤ a then fontTable.getD (a - fontBase) 0 else 0

/-- `MemRead(a, 1)`: the byte last written at `a`, or the reset image (20_memory.md R61). -/
def Memory.read : Memory → Nat → Byte
  | [], a => resetByte a
  | (k, v) :: m, a => if a = k then v else Memory.read m a

/-- List the cell `(a, b)`, keeping the addresses rising. -/
def Memory.put : Memory → Nat → Byte → Memory
  | [], a, b => [(a, b)]
  | (k, v) :: m, a, b =>
    if a < k then (a, b) :: (k, v) :: m
    else if a = k then (a, b) :: m
    else (k, v) :: Memory.put m a b

/-- Drop every cell at `a` (a canonical memory lists at most one). -/
def Memory.erase : Memory → Nat → Memory
  | [], _ => []
  | (k, v) :: m, a => if a = k then Memory.erase m a else (k, v) :: Memory.erase m a

/-- `MemWrite(a, 1, b)` (20_memory.md R60): writing the reset image's own byte drops the cell, so equal memories are equal
data. -/
def Memory.write (m : Memory) (a : Nat) (b : Byte) : Memory :=
  if b = resetByte a then Memory.erase m a else Memory.put m a b

/-- The bytes at `a`, `a + 1`, ..., `a + n - 1` (20_memory.md R53). -/
def Memory.readBytes (m : Memory) (a : Nat) : Nat → List Byte
  | 0 => []
  | n + 1 => Memory.read m a :: Memory.readBytes m (a + 1) n

/-- Write the bytes at ascending addresses from `a` (20_memory.md R53). -/
def Memory.writeBytes (m : Memory) (a : Nat) : List Byte → Memory
  | [] => m
  | b :: bs => Memory.writeBytes (Memory.write m a b) (a + 1) bs

/-- Every listed address is at least `lo`, inside the address space, above the one before it, and holds a byte that the reset
image does not. -/
def Memory.wfFrom : Nat → Memory → Bool
  | _, [] => true
  | lo, (k, v) :: m => decide (lo ≤ k) && decide (k < memSize) && decide (v ≠ resetByte k) && Memory.wfFrom (k + 1) m

/-- The canonical form of the memory. -/
def Memory.wf (m : Memory) : Bool := Memory.wfFrom 0 m

/-- `MemRead(a, 2)` as the fetch uses it: big-endian (20_memory.md R52). -/
def Memory.readWord (m : Memory) (a : Nat) : Word := wordOfBytes (Memory.read m a) (Memory.read m (a + 1))

end Sys2Proof.Machine
end

