-- ==== Sys2Proof/Machine/Ops.lean ====
section
/-! DEFINITION. The named operations over the state: register and field writes, taking a fault, control transfer, the call
stack, the framebuffer, the timer tick, the key sample, and the host's load. -/

namespace Sys2Proof.Machine

/-! ### Registers and plain fields -/

/-- Read `V[x]` (10_state.md R20). No register is hard-wired. -/
def State.reg (s : State) (x : Reg) : Byte := s.regs[x]

/-- Write `V[x]`. -/
def State.setReg (s : State) (x : Reg) (v : Byte) : State := { s with regs := s.regs.set x v }

/-- Write `I` (10_state.md R25). -/
def State.setIndex (s : State) (v : Word) : State := { s with index := v }

/-- Write `pc` (10_state.md R26). -/
def State.setPc (s : State) (v : Word) : State := { s with pc := v }

/-- Replace memory. -/
def State.setMem (s : State) (m : Memory) : State := { s with mem := m }

/-- Replace the framebuffer. -/
def State.setFb (s : State) (f : Framebuffer) : State := { s with fb := f }

/-- Replace the register file. -/
def State.setRegs (s : State) (v : Vector Byte 16) : State := { s with regs := v }

/-- Write the delay timer (10_state.md R30). -/
def State.setDt (s : State) (v : Byte) : State := { s with dt := v }

/-- Write the sound timer; a nonzero store by an instruction starts the tone, a zero store leaves it (44_input_timers.md
R168, R170; log 20). -/
def State.storeSound (s : State) (v : Byte) : State := { s with st := v, tone := s.tone || decide (v ≠ 0) }

/-- The byte at an address, as a load reads it. -/
def State.readByte (s : State) (a : Nat) : Byte := Memory.read s.mem a

/-! ### Taking a fault (60_exceptions.md R190)

There is no vector, no saved state and no return: only the host's load leaves `Faulted` (R192). -/

/-- `raise k`: the run state becomes `Faulted k` and nothing else changes. The pc already holds the advanced value when the
fault comes from decode or from the form (log 15). -/
def State.raise (s : State) (k : FaultKind) : State := { s with run := .faulted k }

/-- The numeric fault code of R180 (log 30). -/
def FaultKind.code : FaultKind → BitVec 3
  | .invalidOpcode => 1
  | .addressOutOfRange => 2
  | .stackOverflow => 3
  | .stackUnderflow => 4
  | .invalidRegisterOperand => 5

/-- The fault code of the `status` port (60_exceptions.md R203): 0 when no fault is held. -/
def State.faultCode (s : State) : BitVec 3 :=
  match s.run with
  | .faulted k => k.code
  | _ => 0

/-! ### Control transfer -/

/-- The advance of the slot: `pc <- pc + 2` before dispatch (10_state.md R45). -/
def State.advance (s : State) : State := s.setPc (s.pc + 2)

/-- A transfer to an absolute target, refused above 4094 (40_control_flow.md R109). The target is a number, so that the sum
of jump-plus-v0 is judged before it is narrowed (log 17). -/
def State.transfer (s : State) (target : Nat) : State :=
  if target > maxFetch then s.raise .addressOutOfRange else s.setPc (BitVec.ofNat 16 target)

/-- `Skip()` of 40_control_flow.md R103. -/
def State.skip (s : State) : State :=
  if s.pc.toNat + 2 > maxFetch then s.raise .addressOutOfRange else s.setPc (s.pc + 2)

/-- A conditional skip: the bound is tested only when the condition holds (R103). -/
def State.skipIf (s : State) (c : Bool) : State := if c then s.skip else s

/-! ### The call stack (10_state.md R29) -/

/-- Push `pc`, the address of the instruction after the call. Used only while an entry is free. -/
def State.pushPc (s : State) : State :=
  { s with
    stack := s.stack.setIfInBounds s.sp.val s.pc
    sp := if h : s.sp.val < 16 then ⟨s.sp.val + 1, Nat.succ_lt_succ h⟩ else s.sp }

/-- Pop the top entry into `pc`; the entry keeps its content (40_control_flow.md R100). Used only while an entry is live. -/
def State.popPc (s : State) : State :=
  { s with
    sp := ⟨s.sp.val - 1, Nat.lt_of_le_of_lt (Nat.sub_le _ _) s.sp.isLt⟩
    pc := s.stack.getD (s.sp.val - 1) 0 }

/-! ### Memory transfers -/

/-- The data bound `I + len <= 4096` on unbounded integers (20_memory.md R58). -/
def State.dataInRange (s : State) (len : Nat) : Bool := decide (s.index.toNat + len ≤ memSize)

/-- Store bytes at ascending addresses from `I`, all or none (20_memory.md R58, R62). -/
def State.storeAtIndex (s : State) (bs : List Byte) : State :=
  if s.dataInRange bs.length then s.setMem (Memory.writeBytes s.mem s.index.toNat bs)
  else s.raise .addressOutOfRange

/-- Write registers `V[k]`, `V[k+1]`, ... from a list of bytes. -/
def writeRegsFrom (v : Vector Byte 16) (k : Nat) : List Byte → Vector Byte 16
  | [] => v
  | b :: bs => writeRegsFrom (v.setIfInBounds k b) (k + 1) bs

/-- The registers `V[0..x]`, in order (42_index_memory.md R147). -/
def State.regsUpTo (s : State) (x : Reg) : List Byte := s.regs.toList.take (x.val + 1)

/-- Load `V[0..x]` from ascending addresses from `I`, all or none (42_index_memory.md R148). -/
def State.loadFromIndex (s : State) (x : Reg) : State :=
  if s.dataInRange (x.val + 1) then
    s.setRegs (writeRegsFrom s.regs 0 (Memory.readBytes s.mem s.index.toNat (x.val + 1)))
  else s.raise .addressOutOfRange

/-! ### The framebuffer (43_display.md R151) -/

/-- Read the cell `fb[x][y]`. -/
def Framebuffer.cell (f : Framebuffer) (x : Fin 64) (y : Fin 32) : Bool := f[x][y]

/-- Write the cell `fb[x][y]`. -/
def Framebuffer.setCell (f : Framebuffer) (x : Fin 64) (y : Fin 32) (v : Bool) : Framebuffer :=
  f.set x (f[x].set y v)

/-- `Clear()`: every cell 0. -/
def Framebuffer.clear : Framebuffer := Vector.replicate 64 (Vector.replicate 32 false)

/-- The column of an unbounded horizontal coordinate: modulo 64 (R153). -/
def wrapX (n : Nat) : Fin 64 := ⟨n % 64, Nat.mod_lt _ (by decide)⟩

/-- The row of an unbounded vertical coordinate: modulo 32 (R153). -/
def wrapY (n : Nat) : Fin 32 := ⟨n % 32, Nat.mod_lt _ (by decide)⟩

/-- A drawing in progress: the framebuffer and whether a lit cell was turned off. -/
structure Drawing where
  fb : Framebuffer
  collided : Bool
deriving DecidableEq, Repr

/-- One sprite bit: XOR it into its cell and record a hit (the innermost body of `DrawSprite`). -/
def Drawing.bit (d : Drawing) (x : Fin 64) (y : Fin 32) (b : Bool) : Drawing :=
  { fb := Framebuffer.setCell d.fb x y (xor (Framebuffer.cell d.fb x y) b)
    collided := d.collided || (Framebuffer.cell d.fb x y && b) }

/-- The columns `c`, `c + 1`, ... of one sprite row, bit `7 - c` first; `n` columns are left. -/
def Drawing.columns (d : Drawing) (x0 y : Nat) (row : Byte) (c : Nat) : Nat → Drawing
  | 0 => d
  | n + 1 => (d.bit (wrapX (x0 + c)) (wrapY y) (row.getLsbD (7 - c))).columns x0 y row (c + 1) n

/-- The rows of a sprite, the first at `y`. -/
def Drawing.rows (d : Drawing) (x0 y : Nat) : List Byte → Drawing
  | [] => d
  | row :: rest => (d.columns x0 y row 0 8).rows x0 (y + 1) rest

/-- `DrawSprite(x0, y0, rows)` of R151. -/
def drawSprite (f : Framebuffer) (x0 y0 : Nat) (rows : List Byte) : Drawing :=
  Drawing.rows ⟨f, false⟩ x0 y0 rows

/-! ### Timers (44_input_timers.md R169) -/

/-- `Tick()`: each nonzero timer loses one; the tone stops when the sound timer reaches 0. -/
def State.tick (s : State) : State :=
  { s with
    dt := if s.dt = 0 then s.dt else s.dt - 1
    st := if s.st = 0 then s.st else s.st - 1
    tone := if s.st = 1 then false else s.tone }

/-! ### The environment's inputs (log 1) -/

/-- What the environment presents at the next step: the head of the agenda, or a free input when none is listed. -/
def State.input (s : State) : Input :=
  match s.agenda with
  | i :: _ => i
  | [] => Config.input s.inputIndex

/-- The state once the next input has been taken. -/
def State.takeInput (s : State) : State :=
  match s.agenda with
  | _ :: rest => { s with agenda := rest }
  | [] => { s with inputIndex := s.inputIndex + 1 }

/-- The start of an instruction slot: sample the keys (10_state.md R34, R45) and present the random byte. -/
def State.present (s : State) (i : Input) : State := { s with keys := i.keyLevel, rand := i.rand }

/-! ### wait-for-key (44_input_timers.md R164, R165) -/

/-- Suspend the stream: the keys already down do not count. -/
def State.suspend (s : State) (x : Reg) : State := { s with waitBase := s.keys, run := .awaitKey x }

/-- The keys down in `new` and up in `base`, bit k = key k. -/
def freshKeys (base new : BitVec 16) : BitVec 16 := new &&& ~~~base

/-- The lowest key of a nonempty set of keys. -/
def lowestKey (f : BitVec 16) : Key := ((List.finRange 16).find? (fun k => f.getLsbD k.val)).getD 0

/-- The key the arbiter reports: its preferred key when that is fresh, else the lowest fresh one. The preference is a free
value, so any fresh key can be reported (log 3). -/
def arbitrate (f : BitVec 16) (pick : Key) : Key := if f.getLsbD pick.val then pick else lowestKey f

/-! ### Reset and load (70_reset_and_hazards.md R210 to R212) -/

/-- The host's reset with a ROM image, the font parameter and the policy parameter: zero-filled, font copied, ROM copied. An
image longer than 3584 bytes is refused (R212). It is the only way out of `Faulted` (60_exceptions.md R192), and it is no step of the model
(log 24). -/
def State.load (font : Vector Byte 80) (policy : VfDestPolicy) (rom : List Byte) : Option State :=
  if rom.length ≤ romMax then
    some { State.reset with
      mem := Memory.writeBytes (Memory.writeBytes [] fontBase font.toList) progBase rom
      vfDestPolicy := policy }
  else none

end Sys2Proof.Machine
end

