-- ==== Sys2Proof/Machine/Flags.lean ====
section
/-! DEFINITION. The flag computations of 41_alu.md R133 and the flag write of 10_state.md R22. -/

namespace Sys2Proof.Machine

/-- A flag as the byte a flag-producing form writes: 1 or 0 in the whole register (10_state.md R22). -/
def flagByte (b : Bool) : Byte := if b then 1 else 0

/-- Write the flag register `V[15]` (10_state.md R22). -/
def State.setFlag (s : State) (b : Bool) : State := s.setReg 15 (flagByte b)

/-- Carry: the true sum exceeds 255 (41_alu.md R127, R133). -/
def carryOut (a b : Byte) : Bool := decide (a.toNat + b.toNat > 255)

/-- Not-borrow of `a - b`: false when `a < b`, so equal operands give true (41_alu.md R128, R130, R133). -/
def notBorrow (a b : Byte) : Bool := !decide (a.toNat < b.toNat)

/-- The bit a right shift discards: bit 0 (41_alu.md R129). -/
def lowBit (b : Byte) : Bool := b.getLsbD 0

/-- The bit a left shift discards: bit 7 (41_alu.md R131). -/
def highBit (b : Byte) : Bool := b.getLsbD 7

end Sys2Proof.Machine
end

