-- ==== Sys2Proof/Machine/Operands.lean ====
section
/-! DEFINITION. Operand forms: the common start of the arithmetic group (41_alu.md R122) and the digit operand of the key skips
and of load-index-font (44_input_timers.md R161, 42_index_memory.md R142). -/

namespace Sys2Proof.Machine

/-- The check of `ArithPre`: register 15 as destination is refused under the policy `fault` (41_alu.md R122; log 7). -/
def State.destRefused (s : State) (x : Reg) : Bool := decide (x = 15) && decide (s.vfDestPolicy = .fault)

/-- A group-8 form without a flag: `V[X] <- f(V[X], V[Y])` after `ArithPre` (41_alu.md R123 to R126). -/
def State.arith (s : State) (x y : Reg) (f : Byte → Byte → Byte) : State :=
  if s.destRefused x then s.raise .invalidRegisterOperand
  else s.setReg x (f (s.reg x) (s.reg y))

/-- A flag-producing group-8 form: both operands are captured, then the result and last the flag are written (41_alu.md R122,
R134; log 16). -/
def State.arithFlag (s : State) (x y : Reg) (f : Byte → Byte → Byte) (flag : Byte → Byte → Bool) : State :=
  if s.destRefused x then s.raise .invalidRegisterOperand
  else (s.setReg x (f (s.reg x) (s.reg y))).setFlag (flag (s.reg x) (s.reg y))

/-- A register operand that must hold 0..15: the whole register is tested, not its low nibble (44_input_timers.md R161). -/
def State.digitOperand (s : State) (x : Reg) : Option (Fin 16) :=
  if h : (s.reg x).toNat < 16 then some ⟨(s.reg x).toNat, h⟩ else none

/-- A key skip: the operand check, then the skip when the level of the key is `level` (44_input_timers.md R162, R163). -/
def State.skipOnKey (s : State) (x : Reg) (level : Bool) : State :=
  match s.digitOperand x with
  | some k => s.skipIf (s.keys.getLsbD k.val == level)
  | none => s.raise .invalidRegisterOperand

/-- The three decimal digits of a byte, hundreds first (42_index_memory.md R143). -/
def bcdDigits (v : Byte) : List Byte :=
  [BitVec.ofNat 8 (v.toNat / 100), BitVec.ofNat 8 (v.toNat / 10 % 10), BitVec.ofNat 8 (v.toNat % 10)]

end Sys2Proof.Machine
end

