-- ==== Sys2Proof/Machine/Alu.lean ====
section
/-! DEFINITION. Constants, the arithmetic group and random-masked (41_alu.md). -/

namespace Sys2Proof.Machine

/-- load-const (R120). -/
def execLoadConst (x : Reg) (nn : Byte) (s : State) : Result := .next (s.setReg x nn)

/-- add-const (R121): wraps modulo 256, no flag. -/
def execAddConst (x : Reg) (nn : Byte) (s : State) : Result := .next (s.setReg x (s.reg x + nn))

/-- copy (R123). -/
def execCopy (x y : Reg) (s : State) : Result := .next (s.arith x y (fun _ b => b))

/-- or (R124). -/
def execOr (x y : Reg) (s : State) : Result := .next (s.arith x y (fun a b => a ||| b))

/-- and (R125). -/
def execAnd (x y : Reg) (s : State) : Result := .next (s.arith x y (fun a b => a &&& b))

/-- xor (R126). -/
def execXor (x y : Reg) (s : State) : Result := .next (s.arith x y (fun a b => a ^^^ b))

/-- add-with-carry (R127). -/
def execAddWithCarry (x y : Reg) (s : State) : Result := .next (s.arithFlag x y (fun a b => a + b) carryOut)

/-- sub-with-borrow (R128). -/
def execSubWithBorrow (x y : Reg) (s : State) : Result := .next (s.arithFlag x y (fun a b => a - b) notBorrow)

/-- shift-right (R129): shifts `V[Y]`. -/
def execShiftRight (x y : Reg) (s : State) : Result := .next (s.arithFlag x y (fun _ b => b >>> 1) (fun _ b => lowBit b))

/-- sub-reverse-with-borrow (R130): `V[Y] - V[X]`. -/
def execSubReverseWithBorrow (x y : Reg) (s : State) : Result :=
  .next (s.arithFlag x y (fun a b => b - a) (fun a b => notBorrow b a))

/-- shift-left (R131): shifts `V[Y]`. -/
def execShiftLeft (x y : Reg) (s : State) : Result := .next (s.arithFlag x y (fun _ b => b <<< 1) (fun _ b => highBit b))

/-- random-masked (R132): the byte is the one the environment presents to this slot, a free value (log 2). -/
def execRandomMasked (x : Reg) (nn : Byte) (s : State) : Result := .next (s.setReg x (s.rand &&& nn))

end Sys2Proof.Machine
end

