-- ==== Sys2Proof/Machine/ControlFlow.lean ====
section
/-! DEFINITION. Control transfer (40_control_flow.md). In every meaning `s.pc` already holds the address of the instruction
plus 2 (10_state.md R45; log 27). -/

namespace Sys2Proof.Machine

/-- return (R100): the popped address is not range-checked (log 17). -/
def execRet (s : State) : Result :=
  .next (if s.sp.val = 0 then s.raise .stackUnderflow else s.popPc)

/-- jump (R101). -/
def execJump (nnn : Addr12) (s : State) : Result := .next (s.transfer nnn.toNat)

/-- call (R102): overflow is tested before the target (log 15), both before the push. -/
def execCall (nnn : Addr12) (s : State) : Result :=
  .next
    (if s.sp.val ≥ 16 then s.raise .stackOverflow
     else if nnn.toNat > maxFetch then s.raise .addressOutOfRange
     else s.pushPc.setPc (nnn.zeroExtend 16))

/-- jump-plus-v0 (R104): the sum is not reduced before the test (log 17). -/
def execJumpPlusV0 (nnn : Addr12) (s : State) : Result := .next (s.transfer (nnn.toNat + (s.reg 0).toNat))

/-- skip-eq-const (R105). -/
def execSkipEqConst (x : Reg) (nn : Byte) (s : State) : Result := .next (s.skipIf (s.reg x == nn))

/-- skip-ne-const (R106). -/
def execSkipNeConst (x : Reg) (nn : Byte) (s : State) : Result := .next (s.skipIf (s.reg x != nn))

/-- skip-eq-reg (R107). -/
def execSkipEqReg (x y : Reg) (s : State) : Result := .next (s.skipIf (s.reg x == s.reg y))

/-- skip-ne-reg (R108). -/
def execSkipNeReg (x y : Reg) (s : State) : Result := .next (s.skipIf (s.reg x != s.reg y))

end Sys2Proof.Machine
end

