-- ==== Sys2Proof/Machine/Display.lean ====
section
/-! DEFINITION. Framebuffer forms (43_display.md). -/

namespace Sys2Proof.Machine

/-- clear-screen (R150): `V[15]` is not written. -/
def execClearScreen (s : State) : Result := .next (s.setFb Framebuffer.clear)

/-- The drawing of `draw`: the coordinates and the sprite rows are read before anything is written (R152). -/
def State.drawing (s : State) (x y : Reg) (n : Nat) : Drawing :=
  drawSprite s.fb (s.reg x).toNat (s.reg y).toNat (Memory.readBytes s.mem s.index.toNat n)

/-- draw (R152): the bound is tested for every N (log 19) before any pixel is touched; `V[15]` is the collision. -/
def execDraw (x y : Reg) (n : Nat) (s : State) : Result :=
  .next
    (if s.dataInRange n then (s.setFb (s.drawing x y n).fb).setFlag (s.drawing x y n).collided
     else s.raise .addressOutOfRange)

end Sys2Proof.Machine
end

