-- ==== Sys2Proof/Machine/IndexMemory.lean ====
section
/-! DEFINITION. Index register forms, store-bcd and the bulk transfers (42_index_memory.md). `I` is not modified by the memory
forms (R146; log 18). -/

namespace Sys2Proof.Machine

/-- load-index (R140). -/
def execLoadIndex (nnn : Addr12) (s : State) : Result := .next (s.setIndex (nnn.zeroExtend 16))

/-- add-index-from-reg (R141): wraps modulo 65536, no flag, no fault (log 18). -/
def execAddIndexFromReg (x : Reg) (s : State) : Result := .next (s.setIndex (s.index + (s.reg x).zeroExtend 16))

/-- load-index-font (R142): the second check cannot fail with `FONT_BASE = 0` and is kept as the spec keeps it. -/
def execLoadIndexFont (x : Reg) (s : State) : Result :=
  .next
    (match s.digitOperand x with
     | some d =>
       if fontBase + 5 * d.val + 5 > memSize then s.raise .addressOutOfRange
       else s.setIndex (BitVec.ofNat 16 (fontBase + 5 * d.val))
     | none => s.raise .invalidRegisterOperand)

/-- store-bcd (R143): hundreds, tens and ones at `I`, `I + 1`, `I + 2`. -/
def execStoreBcd (x : Reg) (s : State) : Result := .next (s.storeAtIndex (bcdDigits (s.reg x)))

/-- store-registers (R147): `V[0..X]`, inclusive. -/
def execStoreRegisters (x : Reg) (s : State) : Result := .next (s.storeAtIndex (s.regsUpTo x))

/-- load-registers (R148): `V[0..X]`, inclusive. -/
def execLoadRegisters (x : Reg) (s : State) : Result := .next (s.loadFromIndex x)

end Sys2Proof.Machine
end

