-- ==== Sys2Proof/Machine/InputTimers.lean ====
section
/-! DEFINITION. Key forms and timer forms (44_input_timers.md). -/

namespace Sys2Proof.Machine

/-- skip-if-key-down (R162). -/
def execSkipIfKeyDown (x : Reg) (s : State) : Result := .next (s.skipOnKey x true)

/-- skip-if-key-up (R163). -/
def execSkipIfKeyUp (x : Reg) (s : State) : Result := .next (s.skipOnKey x false)

/-- wait-for-key, issue (R164); the completion is the wait slot (R165). -/
def execWaitForKey (x : Reg) (s : State) : Result := .next (s.suspend x)

/-- load-from-delay-timer (R166). -/
def execLoadFromDelayTimer (x : Reg) (s : State) : Result := .next (s.setReg x s.dt)

/-- store-to-delay-timer (R167). -/
def execStoreToDelayTimer (x : Reg) (s : State) : Result := .next (s.setDt (s.reg x))

/-- store-to-sound-timer (R168). -/
def execStoreToSoundTimer (x : Reg) (s : State) : Result := .next (s.storeSound (s.reg x))

end Sys2Proof.Machine
end

