-- ==== Sys2Proof/Machine/Dispatch.lean ====
section
/-! DEFINITION. Dispatch: one arm per constructor of `Instr`, each a direct call of its meaning. -/

namespace Sys2Proof.Machine

def exec (i : Instr) (s : State) : Host.Outcome State Fault Refusal :=
  match i with
  | .clearScreen => Sys2Proof.Machine.execClearScreen s
  | .ret => Sys2Proof.Machine.execRet s
  | .jump nnn => Sys2Proof.Machine.execJump nnn s
  | .call nnn => Sys2Proof.Machine.execCall nnn s
  | .skipEqConst x nn => Sys2Proof.Machine.execSkipEqConst x nn s
  | .skipNeConst x nn => Sys2Proof.Machine.execSkipNeConst x nn s
  | .skipEqReg x y => Sys2Proof.Machine.execSkipEqReg x y s
  | .skipNeReg x y => Sys2Proof.Machine.execSkipNeReg x y s
  | .loadConst x nn => Sys2Proof.Machine.execLoadConst x nn s
  | .addConst x nn => Sys2Proof.Machine.execAddConst x nn s
  | .copy x y => Sys2Proof.Machine.execCopy x y s
  | .bitOr x y => Sys2Proof.Machine.execOr x y s
  | .bitAnd x y => Sys2Proof.Machine.execAnd x y s
  | .bitXor x y => Sys2Proof.Machine.execXor x y s
  | .addWithCarry x y => Sys2Proof.Machine.execAddWithCarry x y s
  | .subWithBorrow x y => Sys2Proof.Machine.execSubWithBorrow x y s
  | .shiftRight x y => Sys2Proof.Machine.execShiftRight x y s
  | .subReverseWithBorrow x y => Sys2Proof.Machine.execSubReverseWithBorrow x y s
  | .shiftLeft x y => Sys2Proof.Machine.execShiftLeft x y s
  | .loadIndex nnn => Sys2Proof.Machine.execLoadIndex nnn s
  | .jumpPlusV0 nnn => Sys2Proof.Machine.execJumpPlusV0 nnn s
  | .randomMasked x nn => Sys2Proof.Machine.execRandomMasked x nn s
  | .draw x y n => Sys2Proof.Machine.execDraw x y n s
  | .skipIfKeyDown x => Sys2Proof.Machine.execSkipIfKeyDown x s
  | .skipIfKeyUp x => Sys2Proof.Machine.execSkipIfKeyUp x s
  | .loadFromDelayTimer x => Sys2Proof.Machine.execLoadFromDelayTimer x s
  | .waitForKey x => Sys2Proof.Machine.execWaitForKey x s
  | .storeToDelayTimer x => Sys2Proof.Machine.execStoreToDelayTimer x s
  | .storeToSoundTimer x => Sys2Proof.Machine.execStoreToSoundTimer x s
  | .addIndexFromReg x => Sys2Proof.Machine.execAddIndexFromReg x s
  | .loadIndexFont x => Sys2Proof.Machine.execLoadIndexFont x s
  | .storeBcd x => Sys2Proof.Machine.execStoreBcd x s
  | .storeRegisters x => Sys2Proof.Machine.execStoreRegisters x s
  | .loadRegisters x => Sys2Proof.Machine.execLoadRegisters x s

end Sys2Proof.Machine
end

