-- ==== Sys2Proof/Machine/Slots.lean ====
section
/-! DEFINITION. The steps of the agents: the instruction slot (10_state.md R45), the wait slot (44_input_timers.md R165) and the
scheduled tick (R169). -/

namespace Sys2Proof.Machine

/-- The word at `pc`, big-endian (20_memory.md R52). -/
def State.fetchWord (s : State) : Word := Memory.readWord s.mem s.pc.toNat

/-- Decode and execute at an advanced `pc`; a word that is no form faults `InvalidOpcode` (30_encoding.md R75, R82). -/
def dispatch (op : Word) (s : State) : Result :=
  match decode op with
  | .ok i => exec i s
  | .error _ => .next (s.raise .invalidOpcode)

/-- One instruction slot (10_state.md R45): sample the keys, check the fetch bound, fetch, advance, decode, execute. The
sample is latched even when the slot faults (log 10). -/
def instructionSlot (i : Input) (s : State) : Result :=
  if s.pc.toNat > maxFetch then .next ((s.present i).raise .addressOutOfRange)
  else dispatch s.fetchWord (s.present i).advance

/-- One wait slot (44_input_timers.md R165): sample the keys; a fresh press completes the wait for register `x`, else the
sample becomes the base a later press is judged against. -/
def waitSlot (x : Reg) (i : Input) (s : State) : State :=
  if freshKeys s.waitBase i.keyLevel = 0 then { s with keys := i.keyLevel, waitBase := i.keyLevel }
  else
    { (s.setReg x (BitVec.ofNat 8 (arbitrate (freshKeys s.waitBase i.keyLevel) i.pick).val)) with
      keys := i.keyLevel
      run := .running }

/-- A step while `run = Running`: an instruction slot or a tick, as the environment schedules. -/
def stepRunning (s : State) : Result :=
  match s.input.agent with
  | .slot => instructionSlot s.input s.takeInput
  | .tick => .next s.takeInput.tick

/-- A step while `run = AwaitKey(x)`: a wait slot or a tick (44_input_timers.md R172). -/
def stepAwait (x : Reg) (s : State) : Result :=
  match s.input.agent with
  | .slot => .next (waitSlot x s.input s.takeInput)
  | .tick => .next s.takeInput.tick

/-- Where the next instruction is placed for the host: `pc` itself, or the entry point when `pc` is no legal fetch address
(log 26). -/
def State.fetchPlace (s : State) : Word := if s.pc.toNat > maxFetch then BitVec.ofNat 16 progBase else s.pc

/-- Place a word where the next slot fetches it, and schedule that slot next with whatever inputs were next. -/
def State.placeWord (s : State) (w : Word) : State :=
  { s.takeInput with
    pc := s.fetchPlace
    mem := Memory.writeBytes s.mem s.fetchPlace.toNat [highByte w, lowByte w]
    run := .running
    agenda := { s.input with agent := .slot } :: s.takeInput.agenda }

end Sys2Proof.Machine
end

