-- ==== Sys2Proof/Machine/Step.lean ====
section
/-! DEFINITION. One step of the machine: one step of one agent (00_scope.md R6). -/

namespace Sys2Proof.Machine

/-- One step. In `Faulted k` no agent steps (10_state.md R35, R47), and the step answers the fault `halted k`. -/
def step (s : State) : Host.Outcome State Fault Refusal :=
  match s.run with
  | .running => stepRunning s
  | .awaitKey x => stepAwait x s
  | .faulted k => .fault (.halted k)

/-- `s` with the word `w` (bits above `nbits` zero) stored where the very next step fetches its instruction. -/
def State.withFetchWord (s : State) (nbits w : Nat) : State := s.placeWord (tableWord nbits w)

end Sys2Proof.Machine
end

