-- ==== Sys2Proof/Safety.lean ====
section
/-! DEFINITION. The vocabulary of the claims: what a step leaves unchanged, the spec's tables of register use, program counter
and fault causes, the invariant, and the image of a sprite. Nothing here takes part in a step. -/

namespace Sys2Proof.Machine

/-! ### Frames -/

/-- A part of the state that a frame names. -/
inductive Component where
  | regs | index | pc | stack | sp | dt | st | tone | fb | mem | run | keys | waitBase | rand | policy | agenda | inputIndex
deriving DecidableEq, Repr

/-- The part is the same in both states: registers, cells and bytes are compared one by one through the model's own reads. -/
def Component.Same (s t : State) : Component → Prop
  | .regs => ∀ r : Reg, t.reg r = s.reg r
  | .index => t.index = s.index
  | .pc => t.pc = s.pc
  | .stack => ∀ k : Fin 16, t.stack[k] = s.stack[k]
  | .sp => t.sp = s.sp
  | .dt => t.dt = s.dt
  | .st => t.st = s.st
  | .tone => t.tone = s.tone
  | .fb => ∀ (x : Fin 64) (y : Fin 32), Framebuffer.cell t.fb x y = Framebuffer.cell s.fb x y
  | .mem => ∀ a : Nat, t.readByte a = s.readByte a
  | .run => t.run = s.run
  | .keys => t.keys = s.keys
  | .waitBase => t.waitBase = s.waitBase
  | .rand => t.rand = s.rand
  | .policy => t.vfDestPolicy = s.vfDestPolicy
  | .agenda => t.agenda = s.agenda
  | .inputIndex => t.inputIndex = s.inputIndex

/-- Every part but the listed ones is the same. -/
def UnchangedBut (cs : List Component) (s t : State) : Prop := ∀ c : Component, c ∉ cs → c.Same s t

/-! ### The spec's tables -/

/-- The registers `V[0]` to `V[x]`. -/
def regsTo (x : Reg) : List Reg := (List.finRange 16).filter (fun r => decide (r.val ≤ x.val))

/-- The registers a form reads (10_state.md R21, column "reads"). -/
def regReads : Instr → List Reg
  | .skipEqConst x _ | .skipNeConst x _ | .addConst x _ => [x]
  | .skipEqReg x y | .skipNeReg x y => [x, y]
  | .copy _ y | .shiftRight _ y | .shiftLeft _ y => [y]
  | .bitOr x y | .bitAnd x y | .bitXor x y => [x, y]
  | .addWithCarry x y | .subWithBorrow x y | .subReverseWithBorrow x y => [x, y]
  | .jumpPlusV0 _ => [0]
  | .draw x y _ => [x, y]
  | .skipIfKeyDown x | .skipIfKeyUp x => [x]
  | .storeToDelayTimer x | .storeToSoundTimer x => [x]
  | .addIndexFromReg x | .loadIndexFont x | .storeBcd x => [x]
  | .storeRegisters x => regsTo x
  | .clearScreen | .ret | .jump _ | .call _ | .loadConst _ _ | .loadIndex _ | .randomMasked _ _
  | .loadFromDelayTimer _ | .waitForKey _ | .loadRegisters _ => []

/-- The registers a form writes in its slot (10_state.md R21, column "writes"; wait-for-key writes only at its completion). -/
def regWrites : Instr → List Reg
  | .loadConst x _ | .addConst x _ | .randomMasked x _ | .loadFromDelayTimer x => [x]
  | .copy x _ | .bitOr x _ | .bitAnd x _ | .bitXor x _ => [x]
  | .addWithCarry x _ | .subWithBorrow x _ | .subReverseWithBorrow x _ | .shiftRight x _ | .shiftLeft x _ => [x, 15]
  | .draw _ _ _ => [15]
  | .loadRegisters x => regsTo x
  | .clearScreen | .ret | .jump _ | .call _ | .loadIndex _ | .jumpPlusV0 _ | .skipEqConst _ _ | .skipNeConst _ _
  | .skipEqReg _ _ | .skipNeReg _ _ | .skipIfKeyDown _ | .skipIfKeyUp _ | .waitForKey _ | .storeToDelayTimer _
  | .storeToSoundTimer _ | .addIndexFromReg _ | .loadIndexFont _ | .storeBcd _ | .storeRegisters _ => []

/-- The condition under which a skip form skips (40_control_flow.md R105 to R108, 44_input_timers.md R162, R163); false for every
other form. -/
def skipCondition (i : Instr) (s : State) : Bool :=
  match i with
  | .skipEqConst x nn => decide (s.reg x = nn)
  | .skipNeConst x nn => decide (s.reg x ≠ nn)
  | .skipEqReg x y => decide (s.reg x = s.reg y)
  | .skipNeReg x y => decide (s.reg x ≠ s.reg y)
  | .skipIfKeyDown x => s.keys.getLsbD (s.reg x).toNat
  | .skipIfKeyUp x => !s.keys.getLsbD (s.reg x).toNat
  | _ => false

/-- The program counter after a slot that does not fault (10_state.md R46), from the state with the advanced `pc`. -/
def pcAfter (i : Instr) (s : State) : Nat :=
  match i with
  | .jump nnn | .call nnn => nnn.toNat
  | .ret => (s.stack.getD (s.sp.val - 1) 0).toNat
  | .jumpPlusV0 nnn => nnn.toNat + (s.reg 0).toNat
  | _ => if skipCondition i s then s.pc.toNat + 2 else s.pc.toNat

/-- A fault kind when a condition holds. -/
def causeIf (c : Prop) [Decidable c] (k : FaultKind) : Option FaultKind := if c then some k else none

/-- The first fault the form raises, by the cause table 60_exceptions.md R181 in the order of R188; none when it completes.
The table's row for the range of load-index-font is left out: it cannot hold with `FONT_BASE = 0` (D32). -/
def faultCause (i : Instr) (s : State) : Option FaultKind :=
  match i with
  | .ret => causeIf (s.sp.val = 0) .stackUnderflow
  | .jump nnn => causeIf (4094 < nnn.toNat) .addressOutOfRange
  | .call nnn => (causeIf (16 ≤ s.sp.val) .stackOverflow).or (causeIf (4094 < nnn.toNat) .addressOutOfRange)
  | .jumpPlusV0 nnn => causeIf (4094 < nnn.toNat + (s.reg 0).toNat) .addressOutOfRange
  | .skipEqConst _ _ | .skipNeConst _ _ | .skipEqReg _ _ | .skipNeReg _ _ =>
    causeIf (skipCondition i s = true ∧ 4094 < s.pc.toNat + 2) .addressOutOfRange
  | .skipIfKeyDown x | .skipIfKeyUp x =>
    (causeIf (15 < (s.reg x).toNat) .invalidRegisterOperand).or
      (causeIf (skipCondition i s = true ∧ 4094 < s.pc.toNat + 2) .addressOutOfRange)
  | .copy x _ | .bitOr x _ | .bitAnd x _ | .bitXor x _ | .addWithCarry x _ | .subWithBorrow x _ | .shiftRight x _
  | .subReverseWithBorrow x _ | .shiftLeft x _ =>
    causeIf (x = 15 ∧ s.vfDestPolicy = .fault) .invalidRegisterOperand
  | .loadIndexFont x => causeIf (15 < (s.reg x).toNat) .invalidRegisterOperand
  | .draw _ _ n => causeIf (4096 < s.index.toNat + n) .addressOutOfRange
  | .storeBcd _ => causeIf (4096 < s.index.toNat + 3) .addressOutOfRange
  | .storeRegisters x | .loadRegisters x => causeIf (4096 < s.index.toNat + x.val + 1) .addressOutOfRange
  | .clearScreen | .loadConst _ _ | .addConst _ _ | .loadIndex _ | .randomMasked _ _ | .loadFromDelayTimer _
  | .waitForKey _ | .storeToDelayTimer _ | .storeToSoundTimer _ | .addIndexFromReg _ => none

/-- The default font, one row per digit as 20_memory.md R56 prints it (PRESUMED there; D4, log 8). The model's own reset image is
`resetByte`, which does not use this table. -/
def fontGlyphs : List (List Nat) :=
  [[0xF0, 0x90, 0x90, 0x90, 0xF0], [0x20, 0x60, 0x20, 0x20, 0x70], [0xF0, 0x10, 0xF0, 0x80, 0xF0],
   [0xF0, 0x10, 0xF0, 0x10, 0xF0], [0x90, 0x90, 0xF0, 0x10, 0x10], [0xF0, 0x80, 0xF0, 0x10, 0xF0],
   [0xF0, 0x80, 0xF0, 0x90, 0xF0], [0xF0, 0x10, 0x20, 0x40, 0x40]] ++
  [[0xF0, 0x90, 0xF0, 0x90, 0xF0], [0xF0, 0x90, 0xF0, 0x10, 0xF0], [0xF0, 0x90, 0xF0, 0x90, 0x90],
   [0xE0, 0x90, 0xE0, 0x90, 0xE0], [0xF0, 0x80, 0x80, 0x80, 0xF0], [0xE0, 0x90, 0x90, 0x90, 0xE0],
   [0xF0, 0x80, 0xF0, 0x80, 0xF0], [0xF0, 0x80, 0xF0, 0x80, 0x80]]

/-- Row `r` of the glyph of digit `d`. -/
def glyphByte (d : Fin 16) (r : Fin 5) : Nat := (fontGlyphs.getD d.val []).getD r.val 0

/-- The fault kinds in the order of 60_exceptions.md R180, with the codes the spec decides for them (D17, log 30). -/
def faultCodes : List (FaultKind × Nat) :=
  [(.invalidOpcode, 1), (.addressOutOfRange, 2), (.stackOverflow, 3), (.stackUnderflow, 4), (.invalidRegisterOperand, 5)]

/-! ### Steps -/

/-- The next step is an instruction slot that executes `i`. -/
def Executes (s : State) (i : Instr) : Prop :=
  s.run = .running ∧ s.input.agent = .slot ∧ s.pc.toNat ≤ 4094 ∧ decode s.fetchWord = .ok i

/-- Apply a function to the next state of an outcome. -/
def mapNext (f : State → State) : Result → Result
  | .next s => .next (f s)
  | .fault r => .fault r
  | .refused r => .refused r

/-- The state after `k` ticks in a row (44_input_timers.md R171). -/
def ticks : Nat → State → State
  | 0, s => s
  | k + 1, s => ticks k s.tick

/-! ### The invariant -/

/-- What every step keeps: memory in its canonical form; `pc` and every stack entry at most 4096 (10_state.md R27); a running
sound timer sounds (90_conflicts.md C8); while a key is awaited the base follows the last sample (10_state.md R38). -/
structure State.Inv (s : State) : Prop where
  memory : Memory.wf s.mem = true
  pcBound : s.pc.toNat ≤ 4096
  stackBound : ∀ k : Fin 16, s.stack[k].toNat ≤ 4096
  soundIsOn : s.st ≠ 0 → s.tone = true
  baseFollows : ∀ x : Reg, s.run = .awaitKey x → s.waitBase = s.keys

/-! ### The image of a sprite (43_display.md R151, R153, R155) -/

/-- The distance from `start` to `p` going right (or down) around a ring of `size` cells. -/
def ringOffset (size start p : Nat) : Nat := (p + size - start % size) % size

/-- Whether the sprite `draw x y n` lays on cell `(px, py)` has a set bit there. -/
def spriteCovers (s : State) (x y : Reg) (n : Nat) (px : Fin 64) (py : Fin 32) : Bool :=
  decide (ringOffset 64 (s.reg x).toNat px.val < 8) && decide (ringOffset 32 (s.reg y).toNat py.val < n) &&
    (s.readByte (s.index.toNat + ringOffset 32 (s.reg y).toNat py.val)).getLsbD (7 - ringOffset 64 (s.reg x).toNat px.val)

/-! ### Shapes shared by several claims -/

/-- A skip form (40_control_flow.md R103): when the condition holds it skips one word, or faults when that would pass 4094;
when it does not hold, nothing changes. -/
def SkipsWhen (i : Instr) (c : State → Prop) : Prop :=
  ∀ s : State,
    (c s → s.pc.toNat + 2 ≤ 4094 →
      ∃ t, Sys2Proof.Machine.exec i s = .next t ∧ t.pc.toNat = s.pc.toNat + 2 ∧ UnchangedBut [.pc] s t) ∧
    (c s → 4094 < s.pc.toNat + 2 →
      ∃ t, Sys2Proof.Machine.exec i s = .next t ∧ t.run = .faulted .addressOutOfRange) ∧
    (¬ c s → ∃ t, Sys2Proof.Machine.exec i s = .next t ∧ UnchangedBut [] s t)

/-- A group-8 form without a flag (41_alu.md R123 to R126): for a destination other than register 15, bit k of the result is
`f` of bit k of the two operands and no other register changes; register 15 as destination faults under the policy `fault`. -/
def LogicForm (form : Reg → Reg → Instr) (f : Bool → Bool → Bool) : Prop :=
  ∀ (x y : Reg) (s : State),
    (x ≠ 15 →
      ∃ t, Sys2Proof.Machine.exec (form x y) s = .next t ∧
        (∀ k, k < 8 → (t.reg x).getLsbD k = f ((s.reg x).getLsbD k) ((s.reg y).getLsbD k)) ∧
        (∀ r, r ≠ x → t.reg r = s.reg r) ∧ UnchangedBut [.regs] s t) ∧
    (x = 15 → s.vfDestPolicy = .fault →
      ∃ t, Sys2Proof.Machine.exec (form x y) s = .next t ∧ t.run = .faulted .invalidRegisterOperand)

/-- A flag-producing group-8 form (41_alu.md R127 to R131), on the operands' numbers: for a destination other than register 15,
the result, then the flag in register 15, and no other register changes; register 15 as destination faults under the policy
`fault`. -/
def FlagForm (form : Reg → Reg → Instr) (result flag : Nat → Nat → Nat) : Prop :=
  ∀ (x y : Reg) (s : State),
    (x ≠ 15 →
      ∃ t, Sys2Proof.Machine.exec (form x y) s = .next t ∧
        (t.reg x).toNat = result (s.reg x).toNat (s.reg y).toNat ∧
        (t.reg 15).toNat = flag (s.reg x).toNat (s.reg y).toNat ∧
        (∀ r, r ≠ x → r ≠ 15 → t.reg r = s.reg r) ∧ UnchangedBut [.regs] s t) ∧
    (x = 15 → s.vfDestPolicy = .fault →
      ∃ t, Sys2Proof.Machine.exec (form x y) s = .next t ∧ t.run = .faulted .invalidRegisterOperand)

/-- A group-8 form with register 15 as destination under the policy `permit` (41_alu.md R122): register 15 ends holding `final`
of the operands' numbers, and nothing else changes. -/
def PermittedForm (form : Reg → Reg → Instr) (final : Nat → Nat → Nat) : Prop :=
  ∀ (y : Reg) (s : State), s.vfDestPolicy = .permit →
    ∃ t, Sys2Proof.Machine.exec (form 15 y) s = .next t ∧
      (t.reg 15).toNat = final (s.reg 15).toNat (s.reg y).toNat ∧
      (∀ r, r ≠ 15 → t.reg r = s.reg r) ∧ UnchangedBut [.regs] s t

end Sys2Proof.Machine
end

