-- ==== Sys2Proof/Certificates/Slice0/Obligations.lean ====
section
/-! DEFINITION. The statements for the provers. Each docstring names the sentence of the spec it formalises, and says where a
clause is the model's or the spec's own choice rather than a rule. In every statement about `exec`, `s` is the state of the
slot after the advance: `s.pc` is the address of the instruction plus 2 (10_state.md R45). -/

open Sys2Proof Sys2Proof.Machine

/-! ### Encoding and decoding -/

/-- 30_encoding.md R71 to R76: decoding the word of a well-formed instruction gives that instruction, with every operand at every
value its field admits. The opcode numbers are the spec's general-knowledge table (D1, log 12). -/
def Obligations.DecodeInvertsEncode : Prop :=
  ∀ i : Instr, i.wellFormed = true → decode (encode i) = .ok i

/-- 30_encoding.md R74: every word selects at most one form, and a decoded word is the encoding of what it decodes to, so no bit
of a valid word is ignored. The opcode numbers are D1 (log 12), the strict matching D2 and D3 (log 13). -/
def Obligations.DecodedWordIsItsEncoding : Prop :=
  ∀ (w : Word) (i : Instr), decode w = .ok i → i.wellFormed = true ∧ encode i = w

/-- 30_encoding.md R76, "a word w is the form iff w & mask = match": the two-level decoder and the table of 34 masks and matches
agree on every word. The numbers are D1 (log 12). -/
def Obligations.DecoderAgreesWithOpcodeMap : Prop :=
  ∀ (w : Word) (row : OpcodeRow), row ∈ opcodeTable →
    ((∃ i, decode w = .ok i ∧ i.mnemonic = row.mnemonic) ↔ w &&& row.mask = row.matchWord)

/-- 30_encoding.md R82: the words that are no form are exactly those of its table, here by the number of each nibble. Group 0's
strict match is D2, groups E and F's is D3 (log 13); the group and sub-opcode numbers are D1 (log 12). -/
def Obligations.InvalidWordsAreTheListedOnes : Prop :=
  ∀ w : Word, decode w = .error .invalidOpcode ↔
    (w.toNat / 4096 = 0 ∧ w.toNat ≠ 0x00E0 ∧ w.toNat ≠ 0x00EE) ∨
    ((w.toNat / 4096 = 5 ∨ w.toNat / 4096 = 9) ∧ w.toNat % 16 ≠ 0) ∨
    (w.toNat / 4096 = 8 ∧ w.toNat % 16 ∈ [0x8, 0x9, 0xA, 0xB, 0xC, 0xD, 0xF]) ∨
    (w.toNat / 4096 = 14 ∧ w.toNat % 256 ∉ [0x9E, 0xA1]) ∨
    (w.toNat / 4096 = 15 ∧ w.toNat % 256 ∉ [0x07, 0x0A, 0x15, 0x18, 0x1E, 0x29, 0x33, 0x55, 0x65])

/-- 30_encoding.md R71: every field is its bit slice, NN is Y and N together, NNN is X and NN together. -/
def Obligations.FieldsAreTheirBitSlices : Prop :=
  ∀ w : Word,
    (fieldG w).toNat = w.toNat / 4096 ∧ (fieldX w).val = w.toNat / 256 % 16 ∧ (fieldY w).val = w.toNat / 16 % 16 ∧
    (fieldN w).toNat = w.toNat % 16 ∧ (fieldNN w).toNat = w.toNat % 256 ∧ (fieldNNN w).toNat = w.toNat % 4096 ∧
    (fieldNN w).toNat = 16 * (fieldY w).val + (fieldN w).toNat ∧
    (fieldNNN w).toNat = 256 * (fieldX w).val + (fieldNN w).toNat

/-- Words written out from the spec's encodings decode to the instruction they stand for: 00E0 and 6012 are the source's own
(30_encoding.md R77), the others are the spec's worked examples (rules R102, R129, R130, R152, R165 and vectors S1, X3). -/
def Obligations.WordsDecodeToTheirForms : Prop :=
  decode 0x00E0 = .ok .clearScreen ∧ decode 0x6012 = .ok (.loadConst 0 0x12) ∧ decode 0x220A = .ok (.call 0x20A) ∧
  decode 0x1234 = .ok (.jump 0x234) ∧ decode 0x8126 = .ok (.shiftRight 1 2) ∧
  decode 0x8127 = .ok (.subReverseWithBorrow 1 2) ∧ decode 0xD12A = .ok (.draw 1 2 10) ∧
  decode 0xF30A = .ok (.waitForKey 3) ∧ decode 0x8F09 = .error .invalidOpcode

/-- 30_encoding.md R70, 20_memory.md R52: the two bytes of an instruction, high byte first, decode to it and leave the rest of
the stream. The opcode numbers are D1 (log 12). -/
def Obligations.ByteStreamDecodesInOrder : Prop :=
  ∀ (i : Instr) (rest : List Byte), i.wellFormed = true → decodeBytes (encodeBytes i ++ rest) = .ok (i, rest)

/-! ### Steps -/

/-- 10_state.md R45: when the two bytes at `pc` decode to an instruction, a slot samples the keys, takes the presented byte,
advances `pc` by 2 and is then the execution of that instruction. The port `rand` and the agenda are the model's (logs 1, 2). -/
def Obligations.StepRunsTheDecodedInstruction : Prop :=
  ∀ (s : State) (i : Instr), s.run = .running → s.input.agent = .slot → s.pc.toNat ≤ 4094 →
    decodeBytes [s.readByte s.pc.toNat, s.readByte (s.pc.toNat + 1)] = .ok (i, []) →
    step s = exec i { s.takeInput with keys := s.input.keyLevel, rand := s.input.rand, pc := s.pc + 2 }

/-- 20_memory.md R52: op = (mem[pc] << 8) | mem[pc+1], the byte at the lower address is the high byte. -/
def Obligations.FetchIsBigEndian : Prop :=
  ∀ s : State,
    (s.fetchWord).toNat = 256 * (s.readByte s.pc.toNat).toNat + (s.readByte (s.pc.toNat + 1)).toNat

/-- 20_memory.md R57: a slot with `pc > 4094` faults `AddressOutOfRange` and `pc` is not advanced. That the key sample (and the
presented byte) of the slot are latched all the same is read from the order of R45's pseudocode (log 10). -/
def Obligations.FetchAboveBoundFaults : Prop :=
  ∀ s : State, s.run = .running → s.input.agent = .slot → 4094 < s.pc.toNat →
    ∃ t, step s = .next t ∧ t.run = .faulted .addressOutOfRange ∧
      UnchangedBut [.run, .keys, .rand, .agenda, .inputIndex] s t

/-- 30_encoding.md R82, 60_exceptions.md R190: a fetched word that is no form faults `InvalidOpcode`; `pc` keeps the advanced
value (D6, log 15) and the key sample is latched (log 10). -/
def Obligations.UnmappedWordFaults : Prop :=
  ∀ s : State, s.run = .running → s.input.agent = .slot → s.pc.toNat ≤ 4094 →
    decode s.fetchWord = .error .invalidOpcode →
    ∃ t, step s = .next t ∧ t.run = .faulted .invalidOpcode ∧ t.pc.toNat = s.pc.toNat + 2 ∧
      UnchangedBut [.run, .pc, .keys, .rand, .agenda, .inputIndex] s t

/-- 10_state.md R35, R47: in `Faulted k` no agent steps; the model answers the fault that carries the kind (log 9; that ticks stop
too is D18). The status port shows 0 while no fault is held, and the kind's code while one is; the codes 1 to 5 in the order of
60_exceptions.md R180 are the spec's own choice (D17, log 30). -/
def Obligations.FaultedMachineTakesNoStep : Prop :=
  (∀ (s : State) (k : FaultKind), s.run = .faulted k → step s = .fault (.halted k)) ∧
  (∀ (s : State) (k : FaultKind), s.run = .faulted k → (k, s.faultCode.toNat) ∈ faultCodes) ∧
  ∀ s : State, (∀ k, s.run ≠ .faulted k) → s.faultCode.toNat = 0

/-- 44_input_timers.md R169, R172: a tick, enabled while running and while a key is awaited, takes one from each nonzero timer,
stops the tone exactly when it brings the sound timer to 0, and changes nothing else. -/
def Obligations.TickCountsDown : Prop :=
  ∀ s : State, (s.run = .running ∨ ∃ x, s.run = .awaitKey x) → s.input.agent = .tick →
    ∃ t, step s = .next t ∧ t.dt.toNat = s.dt.toNat - 1 ∧ t.st.toNat = s.st.toNat - 1 ∧
      t.tone = (s.tone && decide (s.st.toNat ≠ 1)) ∧
      UnchangedBut [.dt, .st, .tone, .agenda, .inputIndex] s t

/-- 44_input_timers.md R171: k ticks take a timer holding v to max(v - k, 0), and the tone is cleared iff the sound timer passes
from nonzero to 0 among them. -/
def Obligations.RepeatedTicksSaturate : Prop :=
  ∀ (k : Nat) (s : State),
    (ticks k s).dt.toNat = s.dt.toNat - k ∧ (ticks k s).st.toNat = s.st.toNat - k ∧
    (ticks k s).tone = (s.tone && !decide (0 < s.st.toNat ∧ s.st.toNat ≤ k)) ∧
    UnchangedBut [.dt, .st, .tone] s (ticks k s)

/-- 44_input_timers.md R165 (edge detection is D20, log 21): a wait slot whose sample shows no key down that was up in the base
keeps waiting, and the sample becomes the base. -/
def Obligations.WaitSlotWithoutFreshPress : Prop :=
  ∀ (s : State) (x : Reg), s.run = .awaitKey x → s.input.agent = .slot →
    (∀ k : Key, s.input.keyLevel.getLsbD k.val = true → s.waitBase.getLsbD k.val = true) →
    ∃ t, step s = .next t ∧ t.keys = s.input.keyLevel ∧ t.waitBase = s.input.keyLevel ∧
      UnchangedBut [.keys, .waitBase, .agenda, .inputIndex] s t

/-- 44_input_timers.md R165 (D20 and D29, logs 3 and 21): a wait slot whose sample shows fresh keys writes one of them to the
awaited register and resumes, at the unchanged `pc`; each fresh key is reported when the arbiter, a free value, prefers it. -/
def Obligations.FreshPressCompletesTheWait : Prop :=
  ∀ (s : State) (x : Reg), s.run = .awaitKey x → s.input.agent = .slot →
    (∃ k : Key, s.input.keyLevel.getLsbD k.val = true ∧ s.waitBase.getLsbD k.val = false) →
    ∃ (t : State) (k : Key), step s = .next t ∧
      s.input.keyLevel.getLsbD k.val = true ∧ s.waitBase.getLsbD k.val = false ∧ (t.reg x).toNat = k.val ∧
      (s.input.keyLevel.getLsbD s.input.pick.val = true → s.waitBase.getLsbD s.input.pick.val = false → k = s.input.pick) ∧
      t.run = .running ∧ t.keys = s.input.keyLevel ∧ (∀ r, r ≠ x → t.reg r = s.reg r) ∧
      UnchangedBut [.regs, .run, .keys, .agenda, .inputIndex] s t

/-- 44_input_timers.md R160: a key already held down before the wait began, and still down, is not reported: the wait goes on with
that key in its base, or another key completes it. That presses are edges between samples is D20 (log 21). -/
def Obligations.HeldKeyIsNotReported : Prop :=
  ∀ (s : State) (x : Reg) (k : Key), s.run = .awaitKey x → s.input.agent = .slot →
    s.waitBase.getLsbD k.val = true → s.input.keyLevel.getLsbD k.val = true →
    ∃ t, step s = .next t ∧
      ((t.run = .awaitKey x ∧ t.waitBase.getLsbD k.val = true) ∨ (t.run = .running ∧ (t.reg x).toNat ≠ k.val))

/-! ### Reset, load and the invariant -/

/-- The state after reset (70_reset_and_hazards.md R210, R211). The source's own values: registers and `I` zero, `pc` at 0x200, the
stack empty, every cell of the screen 0, memory zero beside the font and the ROM, here the empty one. The spec's choices: the
timers 0, the tone off, the stack entries 0, the run state Running (D16, log 5), the font bytes below 80 (D4, log 8). The
policy is the source's default (log 7). -/
def Obligations.ResetLeavesTheSpecifiedState : Prop :=
  (∀ r, State.reset.reg r = 0) ∧ State.reset.index = 0 ∧ State.reset.pc.toNat = 0x200 ∧ State.reset.sp.val = 0 ∧
  (∀ x y, Framebuffer.cell State.reset.fb x y = false) ∧
  State.reset.dt = 0 ∧ State.reset.st = 0 ∧ State.reset.tone = false ∧ (∀ k : Fin 16, State.reset.stack[k] = 0) ∧
  State.reset.run = .running ∧
  (∀ (d : Fin 16) (r : Fin 5), (State.reset.readByte (5 * d.val + r.val)).toNat = glyphByte d r) ∧
  (∀ a, 80 ≤ a → a < 4096 → State.reset.readByte a = 0) ∧
  State.reset.vfDestPolicy = .fault

/-- 70_reset_and_hazards.md R211: the reset image of memory, for every font and every ROM that fits. -/
def Obligations.LoadBuildsTheResetImage : Prop :=
  ∀ (font : Vector Byte 80) (policy : VfDestPolicy) (rom : List Byte), rom.length ≤ 3584 →
    ∃ s, State.load font policy rom = some s ∧
      ∀ a, a < 4096 →
        (s.readByte a).toNat =
          if 0x200 ≤ a ∧ a < 0x200 + rom.length then (rom.getD (a - 0x200) 0).toNat
          else if a < 80 then (font.toList.getD a 0).toNat else 0

/-- 70_reset_and_hazards.md R210, R212: a load leaves everything but memory and the policy parameter as `State.reset` has it, a
ROM above 3584 bytes is refused, and `State.reset` is the load of the empty ROM with the default font (D4, log 8) and the policy
`fault`. That the policy is a parameter of the load is the model's choice (log 7), and the reset values the spec decides are
log 5. -/
def Obligations.LoadIsResetBesidesMemory : Prop :=
  (∀ (font : Vector Byte 80) (policy : VfDestPolicy) (rom : List Byte),
    (∀ s, State.load font policy rom = some s →
      s.vfDestPolicy = policy ∧ UnchangedBut [.mem, .policy] State.reset s) ∧
    (3584 < rom.length → State.load font policy rom = none)) ∧
  ∀ font : Vector Byte 80, (∀ (d : Fin 16) (r : Fin 5), (font.toList.getD (5 * d.val + r.val) 0).toNat = glyphByte d r) →
    State.load font .fault [] = some State.reset

/-- The invariant holds after reset. Its sound and stack clauses rest on the reset values D16 (log 5); the canonical form of memory is
the model's (log 8). -/
def Obligations.InvariantHoldsAtReset : Prop := State.reset.Inv

/-- The invariant holds after every load. Its sound and stack clauses rest on the reset values D16 (log 5); the canonical form of
memory is the model's (log 8). -/
def Obligations.InvariantHoldsAfterLoad : Prop :=
  ∀ (font : Vector Byte 80) (policy : VfDestPolicy) (rom : List Byte) (s : State),
    State.load font policy rom = some s → s.Inv

/-- Every step from a state that meets the invariant keeps it: memory stays canonical, `pc` and the stack entries stay at most
4096 (10_state.md R27: "No sequence of rules makes pc exceed 4096"), a running sound timer sounds (90_conflicts.md C8), and the
wait base follows the sample (10_state.md R38; D20, log 21). The canonical form is the model's (log 8). -/
def Obligations.StepKeepsTheInvariant : Prop :=
  ∀ s t : State, s.Inv → step s = .next t → t.Inv

/-! ### Control transfer -/

/-- 40_control_flow.md R100: return pops the top entry into `pc`, and faults `StackUnderflow` on an empty stack. That the popped
address is not range-checked is D28 (log 17). -/
def Obligations.ReturnPopsTheStack : Prop :=
  ∀ s : State,
    (∀ k : Fin 16, s.sp.val = k.val + 1 →
      ∃ t, exec .ret s = .next t ∧ t.sp.val = k.val ∧ t.pc = s.stack[k] ∧ UnchangedBut [.sp, .pc] s t) ∧
    (s.sp.val = 0 → ∃ t, exec .ret s = .next t ∧ t.run = .faulted .stackUnderflow)

/-- 40_control_flow.md R101: jump goes to NNN, and faults `AddressOutOfRange` above 4094. -/
def Obligations.JumpGoesToItsTarget : Prop :=
  ∀ (nnn : Addr12) (s : State),
    (nnn.toNat ≤ 4094 → ∃ t, exec (.jump nnn) s = .next t ∧ t.pc.toNat = nnn.toNat ∧ UnchangedBut [.pc] s t) ∧
    (4094 < nnn.toNat → ∃ t, exec (.jump nnn) s = .next t ∧ t.run = .faulted .addressOutOfRange)

/-- 40_control_flow.md R102: call pushes the address after the call and goes to NNN; it faults `StackOverflow` at sixteen live
entries and `AddressOutOfRange` above 4094. That overflow is reported when both hold is D7 (log 15). -/
def Obligations.CallPushesTheReturnAddress : Prop :=
  ∀ (nnn : Addr12) (s : State),
    (∀ k : Fin 16, s.sp.val = k.val → nnn.toNat ≤ 4094 →
      ∃ t, exec (.call nnn) s = .next t ∧ t.stack[k] = s.pc ∧ (∀ j : Fin 16, j ≠ k → t.stack[j] = s.stack[j]) ∧
        t.sp.val = s.sp.val + 1 ∧ t.pc.toNat = nnn.toNat ∧ UnchangedBut [.stack, .sp, .pc] s t) ∧
    (s.sp.val = 16 → ∃ t, exec (.call nnn) s = .next t ∧ t.run = .faulted .stackOverflow) ∧
    (s.sp.val < 16 → 4094 < nnn.toNat → ∃ t, exec (.call nnn) s = .next t ∧ t.run = .faulted .addressOutOfRange)

/-- 40_control_flow.md R104: jump-plus-v0 goes to NNN + V[0]. That the sum is not reduced before the bound is tested is D10
(log 17). -/
def Obligations.JumpPlusV0GoesToTheSum : Prop :=
  ∀ (nnn : Addr12) (s : State),
    (nnn.toNat + (s.reg 0).toNat ≤ 4094 →
      ∃ t, exec (.jumpPlusV0 nnn) s = .next t ∧ t.pc.toNat = nnn.toNat + (s.reg 0).toNat ∧ UnchangedBut [.pc] s t) ∧
    (4094 < nnn.toNat + (s.reg 0).toNat →
      ∃ t, exec (.jumpPlusV0 nnn) s = .next t ∧ t.run = .faulted .addressOutOfRange)

/-- 40_control_flow.md R103, R105, R106: the two constant skips. -/
def Obligations.ConstantSkipsFollowTheirCondition : Prop :=
  ∀ (x : Reg) (nn : Byte),
    SkipsWhen (.skipEqConst x nn) (fun s => (s.reg x).toNat = nn.toNat) ∧
    SkipsWhen (.skipNeConst x nn) (fun s => (s.reg x).toNat ≠ nn.toNat)

/-- 40_control_flow.md R103, R107, R108: the two register skips. -/
def Obligations.RegisterSkipsFollowTheirCondition : Prop :=
  ∀ x y : Reg,
    SkipsWhen (.skipEqReg x y) (fun s => (s.reg x).toNat = (s.reg y).toNat) ∧
    SkipsWhen (.skipNeReg x y) (fun s => (s.reg x).toNat ≠ (s.reg y).toNat)

/-- 44_input_timers.md R161 to R163: for a key register of 0..15 the key skips skip on the sampled level of that key; a larger
value faults `InvalidRegisterOperand`. That this fault comes before the skip's is D7 (log 15). -/
def Obligations.KeySkipsFollowTheSample : Prop :=
  ∀ (x : Reg) (s : State),
    (15 < (s.reg x).toNat →
      (∃ t, exec (.skipIfKeyDown x) s = .next t ∧ t.run = .faulted .invalidRegisterOperand) ∧
      ∃ t, exec (.skipIfKeyUp x) s = .next t ∧ t.run = .faulted .invalidRegisterOperand) ∧
    (∀ k : Key, (s.reg x).toNat = k.val →
      (s.pc.toNat + 2 ≤ 4094 →
        (∃ t, exec (.skipIfKeyDown x) s = .next t ∧
          t.pc.toNat = s.pc.toNat + (if s.keys.getLsbD k.val then 2 else 0) ∧ UnchangedBut [.pc] s t) ∧
        ∃ t, exec (.skipIfKeyUp x) s = .next t ∧
          t.pc.toNat = s.pc.toNat + (if s.keys.getLsbD k.val then 0 else 2) ∧ UnchangedBut [.pc] s t) ∧
      (4094 < s.pc.toNat + 2 → s.keys.getLsbD k.val = true →
        (∃ t, exec (.skipIfKeyDown x) s = .next t ∧ t.run = .faulted .addressOutOfRange) ∧
        ∃ t, exec (.skipIfKeyUp x) s = .next t ∧ UnchangedBut [] s t) ∧
      (4094 < s.pc.toNat + 2 → s.keys.getLsbD k.val = false →
        (∃ t, exec (.skipIfKeyUp x) s = .next t ∧ t.run = .faulted .addressOutOfRange) ∧
        ∃ t, exec (.skipIfKeyDown x) s = .next t ∧ UnchangedBut [] s t))

/-! ### Constants, arithmetic, random -/

/-- 41_alu.md R120, R121: load-const writes NN, add-const adds it modulo 256; every register, 15 included, is a destination, and
no flag is written besides. -/
def Obligations.ConstantFormsWriteOneRegister : Prop :=
  ∀ (x : Reg) (nn : Byte) (s : State),
    (∃ t, exec (.loadConst x nn) s = .next t ∧ t.reg x = nn ∧ (∀ r, r ≠ x → t.reg r = s.reg r) ∧ UnchangedBut [.regs] s t) ∧
    ∃ t, exec (.addConst x nn) s = .next t ∧ (t.reg x).toNat = ((s.reg x).toNat + nn.toNat) % 256 ∧
      (∀ r, r ≠ x → t.reg r = s.reg r) ∧ UnchangedBut [.regs] s t

/-- 41_alu.md R123 to R126: copy, or, and, xor, with no flag effect. -/
def Obligations.LogicFormsWriteNoFlag : Prop :=
  LogicForm .copy (fun _ b => b) ∧ LogicForm .bitOr (fun a b => a || b) ∧ LogicForm .bitAnd (fun a b => a && b) ∧
  LogicForm .bitXor (fun a b => xor a b)

/-- 41_alu.md R127, R128, R130: for all operands, the sum or difference modulo 256, and the carry or not-borrow flag. That a source
register 15 is read before the flag is written is D8 (R134, log 16). -/
def Obligations.SumAndDifferenceFormsSetTheFlag : Prop :=
  FlagForm .addWithCarry (fun a b => (a + b) % 256) (fun a b => if 255 < a + b then 1 else 0) ∧
  FlagForm .subWithBorrow (fun a b => (a + 256 - b) % 256) (fun a b => if a < b then 0 else 1) ∧
  FlagForm .subReverseWithBorrow (fun a b => (b + 256 - a) % 256) (fun a b => if b < a then 0 else 1)

/-- 41_alu.md R129, R131: the shifts read V[Y], move it by one place, and put the discarded bit in the flag. That a source register
15 is read before the flag is written is D8 (R134, log 16). -/
def Obligations.ShiftFormsReadTheSecondOperand : Prop :=
  FlagForm .shiftRight (fun _ b => b / 2) (fun _ b => b % 2) ∧
  FlagForm .shiftLeft (fun _ b => 2 * b % 256) (fun _ b => b / 128)

/-- 41_alu.md R122 under `permit`, register 15 as destination: the flag is written last. This is wholly the spec's own choice (D9,
log 7). -/
def Obligations.PermittedFlagDestination : Prop :=
  PermittedForm .copy (fun _ b => b) ∧ PermittedForm .bitOr (fun a b => a ||| b) ∧
  PermittedForm .bitAnd (fun a b => a &&& b) ∧ PermittedForm .bitXor (fun a b => a ^^^ b) ∧
  PermittedForm .addWithCarry (fun a b => if 255 < a + b then 1 else 0) ∧
  PermittedForm .subWithBorrow (fun a b => if a < b then 0 else 1) ∧
  PermittedForm .shiftRight (fun _ b => b % 2) ∧
  PermittedForm .subReverseWithBorrow (fun a b => if b < a then 0 else 1) ∧
  PermittedForm .shiftLeft (fun _ b => b / 128)

/-- 41_alu.md R132: for every byte the environment presents, the register gets that byte masked with NN. The byte is a free value
(D15, log 2). -/
def Obligations.RandomIsMasked : Prop :=
  ∀ (x : Reg) (nn : Byte) (s : State),
    ∃ t, exec (.randomMasked x nn) s = .next t ∧
      (∀ k, k < 8 → (t.reg x).getLsbD k = (s.rand.getLsbD k && nn.getLsbD k)) ∧
      (∀ r, r ≠ x → t.reg r = s.reg r) ∧ UnchangedBut [.regs] s t

/-! ### Index register and memory -/

/-- 42_index_memory.md R140: load-index sets `I` to NNN, any of 0..4095. -/
def Obligations.LoadIndexSetsI : Prop :=
  ∀ (nnn : Addr12) (s : State),
    ∃ t, exec (.loadIndex nnn) s = .next t ∧ t.index.toNat = nnn.toNat ∧ UnchangedBut [.index] s t

/-- 42_index_memory.md R141: add-index-from-reg adds V[X] to `I`, writes no flag and never faults. That the sum wraps modulo 65536 is
D11 (log 18). -/
def Obligations.AddIndexWrapsWithoutFlag : Prop :=
  ∀ (x : Reg) (s : State),
    ∃ t, exec (.addIndexFromReg x) s = .next t ∧ t.index.toNat = (s.index.toNat + (s.reg x).toNat) % 65536 ∧
      UnchangedBut [.index] s t

/-- 42_index_memory.md R142: load-index-font points `I` at glyph V[X] for a digit 0..15, and faults `InvalidRegisterOperand` above 15.
That its range check cannot fail is D32. -/
def Obligations.LoadIndexFontPointsAtTheGlyph : Prop :=
  ∀ (x : Reg) (s : State),
    ((s.reg x).toNat ≤ 15 →
      ∃ t, exec (.loadIndexFont x) s = .next t ∧ t.index.toNat = 5 * (s.reg x).toNat ∧ UnchangedBut [.index] s t) ∧
    (15 < (s.reg x).toNat →
      ∃ t, exec (.loadIndexFont x) s = .next t ∧ t.run = .faulted .invalidRegisterOperand)

/-- 42_index_memory.md R143: store-bcd stores the hundreds, tens and ones digits at `I`, `I + 1`, `I + 2` and nothing else, and faults
`AddressOutOfRange`, writing no byte, unless I + 3 <= 4096. That `I` is unchanged is D12 (log 18). -/
def Obligations.StoreBcdStoresThreeDigits : Prop :=
  ∀ (x : Reg) (s : State),
    (s.index.toNat + 3 ≤ 4096 →
      ∃ t, exec (.storeBcd x) s = .next t ∧
        (t.readByte s.index.toNat).toNat = (s.reg x).toNat / 100 ∧
        (t.readByte (s.index.toNat + 1)).toNat = (s.reg x).toNat / 10 % 10 ∧
        (t.readByte (s.index.toNat + 2)).toNat = (s.reg x).toNat % 10 ∧
        (∀ a, a < s.index.toNat ∨ s.index.toNat + 3 ≤ a → t.readByte a = s.readByte a) ∧ UnchangedBut [.mem] s t) ∧
    (4096 < s.index.toNat + 3 →
      ∃ t, exec (.storeBcd x) s = .next t ∧ t.run = .faulted .addressOutOfRange ∧ ∀ a, t.readByte a = s.readByte a)

/-- 42_index_memory.md R147: store-registers stores V[0..X] at `I` .. `I + X` and nothing else, and faults `AddressOutOfRange`,
writing no byte, unless I + (X + 1) <= 4096. That `I` is unchanged is D12 (log 18). -/
def Obligations.StoreRegistersStoresTheRange : Prop :=
  ∀ (x : Reg) (s : State),
    (s.index.toNat + (x.val + 1) ≤ 4096 →
      ∃ t, exec (.storeRegisters x) s = .next t ∧
        (∀ r : Reg, r.val ≤ x.val → t.readByte (s.index.toNat + r.val) = s.reg r) ∧
        (∀ a, a < s.index.toNat ∨ s.index.toNat + (x.val + 1) ≤ a → t.readByte a = s.readByte a) ∧
        UnchangedBut [.mem] s t) ∧
    (4096 < s.index.toNat + (x.val + 1) →
      ∃ t, exec (.storeRegisters x) s = .next t ∧ t.run = .faulted .addressOutOfRange ∧
        ∀ a, t.readByte a = s.readByte a)

/-- 42_index_memory.md R148: load-registers loads V[0..X] from `I` .. `I + X`, leaves the registers above X and all of memory, and
faults `AddressOutOfRange`, writing no register, unless I + (X + 1) <= 4096. That `I` is unchanged is D12 (log 18). -/
def Obligations.LoadRegistersLoadsTheRange : Prop :=
  ∀ (x : Reg) (s : State),
    (s.index.toNat + (x.val + 1) ≤ 4096 →
      ∃ t, exec (.loadRegisters x) s = .next t ∧
        (∀ r : Reg, r.val ≤ x.val → t.reg r = s.readByte (s.index.toNat + r.val)) ∧
        (∀ r : Reg, x.val < r.val → t.reg r = s.reg r) ∧ UnchangedBut [.regs] s t) ∧
    (4096 < s.index.toNat + (x.val + 1) →
      ∃ t, exec (.loadRegisters x) s = .next t ∧ t.run = .faulted .addressOutOfRange ∧ ∀ r, t.reg r = s.reg r)

/-- 42_index_memory.md R144 (marked there as derived): the three stored digits are the only decimal digits of the value. -/
def Obligations.BcdDigitsAreTheOnlyOnes : Prop :=
  ∀ (v : Byte) (h t o : Nat), h ≤ 2 → t ≤ 9 → o ≤ 9 →
    (100 * h + 10 * t + o = v.toNat ↔ (bcdDigits v).map BitVec.toNat = [h, t, o])

/-- 20_memory.md R65, its case of the address right after the storing instruction, and R53 (marked there as derived): two registers
stored at the address of the next instruction are the word the next slot fetches, V[0] as its high byte. -/
def Obligations.StoreIsSeenByTheNextFetch : Prop :=
  ∀ (x : Reg) (s : State), 1 ≤ x.val → s.index = s.pc → s.index.toNat + (x.val + 1) ≤ 4096 →
    ∃ t, exec (.storeRegisters x) s = .next t ∧
      t.fetchWord.toNat = 256 * (s.reg 0).toNat + (s.reg 1).toNat

/-! ### Display -/

/-- 43_display.md R150: clear-screen makes every cell 0 and changes nothing else. -/
def Obligations.ClearScreenClearsEveryCell : Prop :=
  ∀ s : State,
    ∃ t, exec .clearScreen s = .next t ∧ (∀ x y, Framebuffer.cell t.fb x y = false) ∧ UnchangedBut [.fb] s t

/-- 43_display.md R151, R152, R155: the sequential drawing of a sprite is the simultaneous one, wrapped at both edges: each cell is
XORed with the sprite bit that covers it, and V[15] is 1 iff a lit cell is covered by a set bit. It faults unless
I + N <= 4096. That the flag register is the destination is D14, the bound for N = 0 is D13 (log 19), that `I` is unchanged is D12
(log 18), and R155 is marked as derived. -/
def Obligations.DrawIsTheSimultaneousXor : Prop :=
  ∀ (x y : Reg) (n : Nat) (s : State), n < 16 →
    (s.index.toNat + n ≤ 4096 →
      ∃ t, exec (.draw x y n) s = .next t ∧
        (∀ px py, Framebuffer.cell t.fb px py = xor (Framebuffer.cell s.fb px py) (spriteCovers s x y n px py)) ∧
        ((∃ px py, Framebuffer.cell s.fb px py = true ∧ spriteCovers s x y n px py = true) → t.reg 15 = 1) ∧
        ((¬ ∃ px py, Framebuffer.cell s.fb px py = true ∧ spriteCovers s x y n px py = true) → t.reg 15 = 0) ∧
        (∀ r, r ≠ 15 → t.reg r = s.reg r) ∧ UnchangedBut [.regs, .fb] s t) ∧
    (4096 < s.index.toNat + n → ∃ t, exec (.draw x y n) s = .next t ∧ t.run = .faulted .addressOutOfRange)

/-- 43_display.md R152, its corner case: drawing the same sprite twice at the same place restores the framebuffer. The second draw
reports a collision iff a set bit lies on a cell that was dark before; where no set bit lies on a lit cell, as in the rule's own
example, that is iff the sprite has a set bit. The rule's sentence leaves that condition out (log 31). The coordinates must be
the same both times, so neither register is the flag register, which the first draw writes (D14, log 19); that the second draw
reads the same sprite, `I` being unchanged by the first, is D12 (R146, log 18). -/
def Obligations.DrawingTwiceRestoresTheScreen : Prop :=
  ∀ (x y : Reg) (n : Nat) (s : State), n < 16 → x ≠ 15 → y ≠ 15 → s.index.toNat + n ≤ 4096 →
    ∃ t u, exec (.draw x y n) s = .next t ∧ exec (.draw x y n) t = .next u ∧
      (∀ px py, Framebuffer.cell u.fb px py = Framebuffer.cell s.fb px py) ∧
      (u.reg 15 = 1 ↔ ∃ px py, Framebuffer.cell s.fb px py = false ∧ spriteCovers s x y n px py = true) ∧
      ((∀ px py, spriteCovers s x y n px py = true → Framebuffer.cell s.fb px py = false) →
        (u.reg 15 = 1 ↔ ∃ r c, r < n ∧ c < 8 ∧ (s.readByte (s.index.toNat + r)).getLsbD c = true))

/-! ### Keys and timers -/

/-- 44_input_timers.md R164: wait-for-key suspends the stream with this slot's sample as the base; nothing else changes, the
register is written only at the completion. -/
def Obligations.WaitForKeySuspends : Prop :=
  ∀ (x : Reg) (s : State),
    ∃ t, exec (.waitForKey x) s = .next t ∧ t.run = .awaitKey x ∧ t.waitBase = s.keys ∧ UnchangedBut [.run, .waitBase] s t

/-- 44_input_timers.md R166, R167: the delay timer moves. -/
def Obligations.DelayTimerMoves : Prop :=
  ∀ (x : Reg) (s : State),
    (∃ t, exec (.loadFromDelayTimer x) s = .next t ∧ t.reg x = s.dt ∧ (∀ r, r ≠ x → t.reg r = s.reg r) ∧
      UnchangedBut [.regs] s t) ∧
    ∃ t, exec (.storeToDelayTimer x) s = .next t ∧ t.dt = s.reg x ∧ UnchangedBut [.dt] s t

/-- 44_input_timers.md R168: a sound store writes the timer, starts the tone if nonzero, and leaves the tone if zero; that the last
holds while the tone sounds is R170's choice (D22, log 20). -/
def Obligations.SoundStoreStartsTheTone : Prop :=
  ∀ (x : Reg) (s : State),
    ∃ t, exec (.storeToSoundTimer x) s = .next t ∧ t.st = s.reg x ∧
      (s.reg x ≠ 0 → t.tone = true) ∧ (s.reg x = 0 → t.tone = s.tone) ∧ UnchangedBut [.st, .tone] s t

/-! ### Rules about the whole machine -/

/-- 60_exceptions.md R181 in the order of R188 (D7, log 15): from a running core, a form faults with a kind exactly when the cause
table says so. -/
def Obligations.FaultsFollowTheCauseTable : Prop :=
  ∀ (i : Instr) (s : State), s.run = .running →
    ∃ t, exec i s = .next t ∧ ∀ k, t.run = .faulted k ↔ faultCause i s = some k

/-- 60_exceptions.md R190, R191: a faulting form changes the run state and nothing else (D6, log 15). -/
def Obligations.FaultsArePrecise : Prop :=
  ∀ (i : Instr) (s t : State) (k : FaultKind), s.run = .running → exec i s = .next t → t.run = .faulted k →
    UnchangedBut [.run] s t

/-- 10_state.md R21: no form writes a register outside its row of the table, whatever it does and whether or not it faults. -/
def Obligations.RegistersAreWrittenAsTabled : Prop :=
  ∀ (i : Instr) (s t : State) (r : Reg), exec i s = .next t → r ∉ regWrites i → t.reg r = s.reg r

/-- 10_state.md R21: no form reads a register outside its row. Another value in a register that a form neither reads nor writes
stays there and changes nothing else of its outcome; another value in one that it writes and does not read changes nothing at
all, if the form does not fault. -/
def Obligations.RegistersAreReadAsTabled : Prop :=
  ∀ (i : Instr) (s : State) (r : Reg) (v : Byte), r ∉ regReads i →
    (r ∉ regWrites i → exec i (s.setReg r v) = mapNext (fun t => t.setReg r v) (exec i s)) ∧
    (r ∈ regWrites i → ∀ t, exec i s = .next t → (∀ k, t.run ≠ .faulted k) → exec i (s.setReg r v) = .next t)

/-- 10_state.md R46: the program counter after a slot, form by form. -/
def Obligations.PcAfterASlotIsAsTabled : Prop :=
  ∀ (i : Instr) (s t : State), exec i s = .next t → (∀ k, t.run ≠ .faulted k) → t.pc.toNat = pcAfter i s

/-- 10_state.md R37, 20_memory.md R60 (marked there as derived): a byte of memory changes only in a slot that executes store-bcd or
store-registers; no tick, wait slot or other form writes memory. -/
def Obligations.OnlyStoresChangeMemory : Prop :=
  ∀ (s t : State) (a : Nat), step s = .next t → t.readByte a ≠ s.readByte a →
    ∃ x, Executes s (.storeBcd x) ∨ Executes s (.storeRegisters x)

/-- 10_state.md R29: "no form reads or writes sp or stack[k] other than call and return": the stack changes only in a slot that executes
one of the two, and an entry only in a call. -/
def Obligations.OnlyCallAndReturnChangeTheStack : Prop :=
  ∀ s t : State, step s = .next t →
    (t.sp ≠ s.sp → Executes s .ret ∨ ∃ nnn, Executes s (.call nnn)) ∧
    ((∃ k : Fin 16, t.stack[k] ≠ s.stack[k]) → ∃ nnn, Executes s (.call nnn))

/-- 10_state.md R33 and R25: a cell of the screen changes only in a slot that executes clear-screen or draw, and `I` only in a slot that
executes load-index, add-index-from-reg or load-index-font; that draw, store-bcd, store-registers and load-registers leave `I` is the
spec's own choice (R146, D12, log 18). -/
def Obligations.ScreenAndIndexChangeOnlyByTheirForms : Prop :=
  ∀ s t : State, step s = .next t →
    ((∃ x y, Framebuffer.cell t.fb x y ≠ Framebuffer.cell s.fb x y) →
      Executes s .clearScreen ∨ ∃ x y n, Executes s (.draw x y n)) ∧
    (t.index ≠ s.index →
      (∃ nnn, Executes s (.loadIndex nnn)) ∨ (∃ x, Executes s (.addIndexFromReg x)) ∨ ∃ x, Executes s (.loadIndexFont x))

/-- 10_state.md R30 to R32: the delay timer changes only by a tick or store-to-delay-timer, the sound timer only by a tick or
store-to-sound-timer, and the tone starts only by store-to-sound-timer and stops only by a tick; that no zero store stops it is
R170's choice (D22, log 20). The policy parameter never changes (log 7). -/
def Obligations.TimersChangeOnlyByTickOrStore : Prop :=
  ∀ s t : State, step s = .next t →
    (t.dt ≠ s.dt → s.input.agent = .tick ∨ ∃ x, Executes s (.storeToDelayTimer x)) ∧
    (t.st ≠ s.st → s.input.agent = .tick ∨ ∃ x, Executes s (.storeToSoundTimer x)) ∧
    (s.tone = false → t.tone = true → ∃ x, Executes s (.storeToSoundTimer x)) ∧
    (s.tone = true → t.tone = false → s.input.agent = .tick ∧ s.st = 1) ∧
    t.vfDestPolicy = s.vfDestPolicy

/-- 70_reset_and_hazards.md R222 (its convention is D30): a slot that executes a jump to its own address changes nothing but what the
environment presents. -/
def Obligations.JumpToItselfIsIdle : Prop :=
  ∀ (s : State) (nnn : Addr12), Executes s (.jump nnn) → nnn.toNat = s.pc.toNat →
    ∃ t, step s = .next t ∧ UnchangedBut [.keys, .rand, .agenda, .inputIndex] s t
end

