-- ==== Sys2Proof/Laws/Decode.lean ====
section
/-! SUPPORT. The fields of an encoded word, and the masks of an encoded word. -/

namespace Sys2Proof

@[simp] theorem fieldG_formatNNN (g : BitVec 4) (nnn : Addr12) : fieldG (formatNNN g nnn) = g := by
  apply BitVec.eq_of_getLsbD_eq
  intro i hi
  simp only [fieldG, formatNNN, BitVec.getLsbD_extractLsb', BitVec.getLsbD_append]
  interval_cases i <;> simp

@[simp] theorem fieldNNN_formatNNN (g : BitVec 4) (nnn : Addr12) : fieldNNN (formatNNN g nnn) = nnn := by
  apply BitVec.eq_of_getLsbD_eq
  intro i hi
  simp only [fieldNNN, formatNNN, BitVec.getLsbD_extractLsb', BitVec.getLsbD_append]
  interval_cases i <;> simp

@[simp] theorem fieldG_formatXNN (g : BitVec 4) (x : Reg) (nn : Byte) : fieldG (formatXNN g x nn) = g := by
  apply BitVec.eq_of_getLsbD_eq
  intro i hi
  simp only [fieldG, formatXNN, BitVec.getLsbD_extractLsb', BitVec.getLsbD_append]
  interval_cases i <;> simp

@[simp] theorem fieldX_formatXNN (g : BitVec 4) (x : Reg) (nn : Byte) : fieldX (formatXNN g x nn) = x := by
  have h : (formatXNN g x nn).extractLsb' 8 4 = BitVec.ofFin x := by
    apply BitVec.eq_of_getLsbD_eq
    intro i hi
    simp only [formatXNN, BitVec.getLsbD_extractLsb', BitVec.getLsbD_append]
    interval_cases i <;> simp
  rw [fieldX, h]

@[simp] theorem fieldNN_formatXNN (g : BitVec 4) (x : Reg) (nn : Byte) : fieldNN (formatXNN g x nn) = nn := by
  apply BitVec.eq_of_getLsbD_eq
  intro i hi
  simp only [fieldNN, formatXNN, BitVec.getLsbD_extractLsb', BitVec.getLsbD_append]
  interval_cases i <;> simp

@[simp] theorem fieldG_formatXYN (g : BitVec 4) (x y : Reg) (n : BitVec 4) : fieldG (formatXYN g x y n) = g := by
  apply BitVec.eq_of_getLsbD_eq
  intro i hi
  simp only [fieldG, formatXYN, BitVec.getLsbD_extractLsb', BitVec.getLsbD_append]
  interval_cases i <;> simp

@[simp] theorem fieldX_formatXYN (g : BitVec 4) (x y : Reg) (n : BitVec 4) : fieldX (formatXYN g x y n) = x := by
  have h : (formatXYN g x y n).extractLsb' 8 4 = BitVec.ofFin x := by
    apply BitVec.eq_of_getLsbD_eq
    intro i hi
    simp only [formatXYN, BitVec.getLsbD_extractLsb', BitVec.getLsbD_append]
    interval_cases i <;> simp
  rw [fieldX, h]

@[simp] theorem fieldY_formatXYN (g : BitVec 4) (x y : Reg) (n : BitVec 4) : fieldY (formatXYN g x y n) = y := by
  have h : (formatXYN g x y n).extractLsb' 4 4 = BitVec.ofFin y := by
    apply BitVec.eq_of_getLsbD_eq
    intro i hi
    simp only [formatXYN, BitVec.getLsbD_extractLsb', BitVec.getLsbD_append]
    interval_cases i <;> simp
  rw [fieldY, h]

@[simp] theorem fieldN_formatXYN (g : BitVec 4) (x y : Reg) (n : BitVec 4) : fieldN (formatXYN g x y n) = n := by
  apply BitVec.eq_of_getLsbD_eq
  intro i hi
  simp only [fieldN, formatXYN, BitVec.getLsbD_extractLsb', BitVec.getLsbD_append]
  interval_cases i <;> simp

/-! ### Masks (30_encoding.md R76) -/

theorem mask_formatNNN (g : BitVec 4) (nnn : Addr12) : formatNNN g nnn &&& 0xF000 = formatNNN g 0 := by
  apply BitVec.eq_of_getLsbD_eq
  intro i hi
  simp only [formatNNN, BitVec.getLsbD_and, BitVec.getLsbD_append]
  interval_cases i <;> simp

theorem mask_formatXNN (g : BitVec 4) (x : Reg) (nn : Byte) : formatXNN g x nn &&& 0xF000 = formatXNN g 0 0 := by
  apply BitVec.eq_of_getLsbD_eq
  intro i hi
  simp only [formatXNN, BitVec.getLsbD_and, BitVec.getLsbD_append]
  interval_cases i <;> simp

theorem mask_formatXSS (g : BitVec 4) (x : Reg) (nn : Byte) : formatXNN g x nn &&& 0xF0FF = formatXNN g 0 nn := by
  apply BitVec.eq_of_getLsbD_eq
  intro i hi
  simp only [formatXNN, BitVec.getLsbD_and, BitVec.getLsbD_append]
  interval_cases i <;> simp

theorem mask_formatXYN (g : BitVec 4) (x y : Reg) (n : BitVec 4) : formatXYN g x y n &&& 0xF00F = formatXYN g 0 0 n := by
  apply BitVec.eq_of_getLsbD_eq
  intro i hi
  simp only [formatXYN, BitVec.getLsbD_and, BitVec.getLsbD_append]
  interval_cases i <;> simp

theorem mask_formatXYN_literal (g : BitVec 4) (x y : Reg) (n : BitVec 4) : formatXYN g x y n &&& 0xF000 = formatXYN g 0 0 0 := by
  apply BitVec.eq_of_getLsbD_eq
  intro i hi
  simp only [formatXYN, BitVec.getLsbD_and, BitVec.getLsbD_append]
  interval_cases i <;> simp

/-! ### A word is its fields -/

theorem formatNNN_fields (w : Word) : formatNNN (fieldG w) (fieldNNN w) = w := by
  apply BitVec.eq_of_getLsbD_eq
  intro i hi
  simp only [formatNNN, fieldG, fieldNNN, BitVec.getLsbD_append, BitVec.getLsbD_extractLsb']
  interval_cases i <;> simp

theorem formatXNN_fields (w : Word) : formatXNN (fieldG w) (fieldX w) (fieldNN w) = w := by
  apply BitVec.eq_of_getLsbD_eq
  intro i hi
  simp only [formatXNN, fieldG, fieldNN, fieldX, BitVec.getLsbD_append, BitVec.ofFin_toFin, BitVec.getLsbD_extractLsb']
  interval_cases i <;> simp

theorem formatXYN_fields (w : Word) : formatXYN (fieldG w) (fieldX w) (fieldY w) (fieldN w) = w := by
  apply BitVec.eq_of_getLsbD_eq
  intro i hi
  simp only [formatXYN, fieldG, fieldX, fieldY, fieldN, BitVec.getLsbD_append, BitVec.ofFin_toFin,
    BitVec.getLsbD_extractLsb']
  interval_cases i <;> simp

/-- The two bytes of a word, put together again, are the word (20_memory.md R52). -/
@[simp] theorem wordOfBytes_bytes (w : Word) : wordOfBytes (highByte w) (lowByte w) = w := by
  apply BitVec.eq_of_getLsbD_eq
  intro i hi
  simp only [wordOfBytes, highByte, lowByte, BitVec.getLsbD_append, BitVec.getLsbD_extractLsb']
  by_cases h : i < 8
  · simp [h]
  · have h2 : i - 8 < 8 := by omega
    have h3 : 8 + (i - 8) = i := by omega
    simp [h, h2, h3]

/-- The number of a word put together from two bytes. -/
theorem toNat_wordOfBytes (hi lo : Byte) : (wordOfBytes hi lo).toNat = 256 * hi.toNat + lo.toNat := by
  have h : (wordOfBytes hi lo).toNat = hi.toNat <<< 8 ||| lo.toNat := BitVec.toNat_append hi lo
  rw [h, ← Nat.shiftLeft_add_eq_or_of_lt lo.isLt, Nat.shiftLeft_eq]
  omega

end Sys2Proof
end

