-- ==== Sys2Proof/Laws/Memory.lean ====
section
/-! SUPPORT. The laws of memory: a read after a write, the reads and writes of a range, and the canonical form. None of the read
laws needs the canonical form; equal reads of canonical memories make them equal data. -/

namespace Sys2Proof.Machine

@[simp] theorem Memory.read_nil (a : Nat) : Memory.read [] a = resetByte a := rfl

theorem Memory.read_cons (k : Nat) (v : Byte) (m : Memory) (a : Nat) :
    Memory.read ((k, v) :: m) a = if a = k then v else Memory.read m a := rfl

theorem Memory.read_put (m : Memory) (a c : Nat) (b : Byte) :
    Memory.read (Memory.put m a b) c = if c = a then b else Memory.read m c := by
  induction m with
  | nil => simp [Memory.put, Memory.read]
  | cons e m ih =>
    obtain ⟨k, v⟩ := e
    by_cases h1 : a < k
    · simp [Memory.put, h1, Memory.read]
    · by_cases h2 : a = k
      · subst h2
        by_cases h3 : c = a <;> simp [Memory.put, Memory.read, h3]
      · by_cases h3 : c = k
        · subst h3
          simp [Memory.put, h1, h2, Memory.read, Ne.symm h2]
        · simp [Memory.put, h1, h2, Memory.read, h3, ih]

theorem Memory.read_erase (m : Memory) (a c : Nat) :
    Memory.read (Memory.erase m a) c = if c = a then resetByte a else Memory.read m c := by
  induction m with
  | nil => by_cases h : c = a <;> simp [Memory.erase, Memory.read, h]
  | cons e m ih =>
    obtain ⟨k, v⟩ := e
    by_cases h1 : a = k
    · subst h1
      by_cases h2 : c = a
      · subst h2
        simpa [Memory.erase] using ih
      · simp [Memory.erase, Memory.read, ih, h2]
    · by_cases h2 : c = k
      · subst h2
        simp [Memory.erase, h1, Memory.read, Ne.symm h1]
      · simp [Memory.erase, h1, Memory.read, h2, ih]

/-- A read after a write (20_memory.md R61, R63). -/
theorem Memory.read_write (m : Memory) (a c : Nat) (b : Byte) :
    Memory.read (Memory.write m a b) c = if c = a then b else Memory.read m c := by
  unfold Memory.write
  split
  · next h => rw [Memory.read_erase, h]
  · exact Memory.read_put m a c b

/-- A read after the write of a range: inside it the byte written there, outside it the byte before. -/
theorem Memory.read_writeBytes (bs : List Byte) : ∀ (m : Memory) (a c : Nat),
    Memory.read (Memory.writeBytes m a bs) c = if a ≤ c ∧ c < a + bs.length then bs.getD (c - a) 0 else Memory.read m c := by
  induction bs with
  | nil =>
    intro m a c
    have h : ¬ (a ≤ c ∧ c < a + 0) := by omega
    simp only [Memory.writeBytes, List.length_nil, h, if_false]
  | cons b bs ih =>
    intro m a c
    simp only [Memory.writeBytes, ih, Memory.read_write, List.length_cons]
    by_cases h1 : c = a
    · subst h1
      simp
    · by_cases h2 : a + 1 ≤ c ∧ c < a + 1 + bs.length
      · have h3 : a ≤ c ∧ c < a + (bs.length + 1) := by omega
        have h4 : c - a = (c - (a + 1)) + 1 := by omega
        rw [if_pos h2, if_pos h3, h4, List.getD_cons_succ]
      · have h3 : ¬ (a ≤ c ∧ c < a + (bs.length + 1)) := by omega
        rw [if_neg h2, if_neg h3, if_neg h1]

@[simp] theorem Memory.length_readBytes (m : Memory) (n : Nat) : ∀ a, (Memory.readBytes m a n).length = n := by
  induction n with
  | zero => intro a; rfl
  | succ n ih => intro a; simp [Memory.readBytes, ih]

/-- The k-th byte of a range is the byte at its address. -/
theorem Memory.getD_readBytes (m : Memory) (n : Nat) : ∀ (a k : Nat), k < n →
    (Memory.readBytes m a n).getD k 0 = Memory.read m (a + k) := by
  induction n with
  | zero => intro a k h; omega
  | succ n ih =>
    intro a k h
    cases k with
    | zero => simp [Memory.readBytes]
    | succ k =>
      rw [Memory.readBytes, List.getD_cons_succ, ih (a + 1) k (by omega)]
      congr 1
      omega

/-! ### The canonical form -/

theorem Memory.wfFrom_cons (lo k : Nat) (v : Byte) (m : Memory) :
    Memory.wfFrom lo ((k, v) :: m) = true ↔
      lo ≤ k ∧ k < memSize ∧ v ≠ resetByte k ∧ Memory.wfFrom (k + 1) m = true := by
  simp [Memory.wfFrom, and_assoc]

theorem Memory.wfFrom_mono (m : Memory) (lo hi : Nat) (h : lo ≤ hi) (w : Memory.wfFrom hi m = true) :
    Memory.wfFrom lo m = true := by
  cases m with
  | nil => rfl
  | cons e m =>
    obtain ⟨k, v⟩ := e
    rw [Memory.wfFrom_cons] at w ⊢
    exact ⟨by omega, w.2⟩

theorem Memory.wfFrom_put (m : Memory) (a : Nat) (b : Byte) (ha : a < memSize) (hb : b ≠ resetByte a) :
    ∀ lo, lo ≤ a → Memory.wfFrom lo m = true → Memory.wfFrom lo (Memory.put m a b) = true := by
  induction m with
  | nil => intro lo hlo _; simp [Memory.put, Memory.wfFrom, hlo, ha, hb]
  | cons e m ih =>
    intro lo hlo w
    obtain ⟨k, v⟩ := e
    rw [Memory.wfFrom_cons] at w
    by_cases h1 : a < k
    · rw [Memory.put, if_pos h1, Memory.wfFrom_cons, Memory.wfFrom_cons]
      exact ⟨hlo, ha, hb, by omega, w.2⟩
    · by_cases h2 : a = k
      · subst h2
        rw [Memory.put, if_neg h1, if_pos rfl, Memory.wfFrom_cons]
        exact ⟨hlo, ha, hb, w.2.2.2⟩
      · rw [Memory.put, if_neg h1, if_neg h2, Memory.wfFrom_cons]
        exact ⟨w.1, w.2.1, w.2.2.1, ih (k + 1) (by omega) w.2.2.2⟩

theorem Memory.wfFrom_erase (m : Memory) (a : Nat) :
    ∀ lo, Memory.wfFrom lo m = true → Memory.wfFrom lo (Memory.erase m a) = true := by
  induction m with
  | nil => intro lo w; exact w
  | cons e m ih =>
    intro lo w
    obtain ⟨k, v⟩ := e
    rw [Memory.wfFrom_cons] at w
    by_cases h : a = k
    · rw [Memory.erase, if_pos h]
      exact Memory.wfFrom_mono _ lo (k + 1) (by omega) (ih (k + 1) w.2.2.2)
    · rw [Memory.erase, if_neg h, Memory.wfFrom_cons]
      exact ⟨w.1, w.2.1, w.2.2.1, ih (k + 1) w.2.2.2⟩

/-- A write inside the address space keeps the canonical form. -/
theorem Memory.wf_write (m : Memory) (a : Nat) (b : Byte) (ha : a < memSize) (w : Memory.wf m = true) :
    Memory.wf (Memory.write m a b) = true := by
  unfold Memory.write
  split
  · exact Memory.wfFrom_erase m a 0 w
  · next h => exact Memory.wfFrom_put m a b ha h 0 (Nat.zero_le a) w

/-- The write of a range inside the address space keeps the canonical form. -/
theorem Memory.wf_writeBytes (bs : List Byte) : ∀ (m : Memory) (a : Nat), a + bs.length ≤ memSize → Memory.wf m = true →
    Memory.wf (Memory.writeBytes m a bs) = true := by
  induction bs with
  | nil => intro m a _ w; exact w
  | cons b bs ih =>
    intro m a h w
    rw [List.length_cons] at h
    exact ih _ (a + 1) (by omega) (Memory.wf_write m a b (by omega) w)

/-- Below its first listed address a canonical memory reads as the reset image. -/
theorem Memory.read_below (m : Memory) : ∀ lo a, a < lo → Memory.wfFrom lo m = true → Memory.read m a = resetByte a := by
  induction m with
  | nil => intro lo a _ _; rfl
  | cons e m ih =>
    intro lo a h w
    obtain ⟨k, v⟩ := e
    rw [Memory.wfFrom_cons] at w
    rw [Memory.read, if_neg (by omega), ih (k + 1) a (by omega) w.2.2.2]

theorem Memory.ext_from (m₁ : Memory) : ∀ (m₂ : Memory) (lo : Nat), Memory.wfFrom lo m₁ = true → Memory.wfFrom lo m₂ = true →
    (∀ a, Memory.read m₁ a = Memory.read m₂ a) → m₁ = m₂ := by
  induction m₁ with
  | nil =>
    intro m₂ lo _ w₂ h
    cases m₂ with
    | nil => rfl
    | cons e m₂ =>
      obtain ⟨k, v⟩ := e
      have hk := h k
      rw [Memory.wfFrom_cons] at w₂
      rw [Memory.read_nil, Memory.read_cons, if_pos rfl] at hk
      exact absurd hk.symm w₂.2.2.1
  | cons e₁ m₁ ih =>
    intro m₂ lo w₁ w₂ h
    obtain ⟨k₁, v₁⟩ := e₁
    have w₁' := (Memory.wfFrom_cons lo k₁ v₁ m₁).mp w₁
    cases m₂ with
    | nil =>
      have hk := h k₁
      rw [Memory.read_cons, if_pos rfl, Memory.read_nil] at hk
      exact absurd hk w₁'.2.2.1
    | cons e₂ m₂ =>
      obtain ⟨k₂, v₂⟩ := e₂
      have w₂' := (Memory.wfFrom_cons lo k₂ v₂ m₂).mp w₂
      have below₁ : ∀ a, a ≤ k₁ → Memory.read m₁ a = resetByte a := fun a ha =>
        Memory.read_below m₁ (k₁ + 1) a (by omega) w₁'.2.2.2
      have below₂ : ∀ a, a ≤ k₂ → Memory.read m₂ a = resetByte a := fun a ha =>
        Memory.read_below m₂ (k₂ + 1) a (by omega) w₂'.2.2.2
      have same : k₁ = k₂ := by
        rcases Nat.lt_trichotomy k₁ k₂ with hlt | heq | hgt
        · have hk := h k₁
          rw [Memory.read_cons, if_pos rfl, Memory.read_cons, if_neg (by omega), below₂ k₁ (by omega)] at hk
          exact absurd hk w₁'.2.2.1
        · exact heq
        · have hk := h k₂
          rw [Memory.read_cons, if_neg (by omega), Memory.read_cons, if_pos rfl, below₁ k₂ (by omega)] at hk
          exact absurd hk.symm w₂'.2.2.1
      subst same
      have hv : v₁ = v₂ := by
        have hk := h k₁
        rwa [Memory.read_cons, if_pos rfl, Memory.read_cons, if_pos rfl] at hk
      subst hv
      have tails : m₁ = m₂ := by
        apply ih m₂ (k₁ + 1) w₁'.2.2.2 w₂'.2.2.2
        intro a
        by_cases ha : a = k₁
        · rw [below₁ a (by omega), below₂ a (by omega)]
        · have hk := h a
          rwa [Memory.read_cons, if_neg ha, Memory.read_cons, if_neg ha] at hk
      rw [tails]

/-- Equal memories are equal data. -/
theorem Memory.ext_of_read (m₁ m₂ : Memory) (w₁ : Memory.wf m₁ = true) (w₂ : Memory.wf m₂ = true)
    (h : ∀ a, Memory.read m₁ a = Memory.read m₂ a) : m₁ = m₂ :=
  Memory.ext_from m₁ m₂ 0 w₁ w₂ h

end Sys2Proof.Machine
end

