-- ==== Sys2Proof/Laws/State.lean ====
section
/-! SUPPORT. One lemma per field per update of `State`, so that no proof unfolds a record update. -/

namespace Sys2Proof.Machine

/-! ### `State.setReg` -/

@[simp] theorem State.setReg_regs (s : State) (x : Reg) (v : Byte) : (s.setReg x v).regs = s.regs.set x v := rfl
@[simp] theorem State.setReg_index (s : State) (x : Reg) (v : Byte) : (s.setReg x v).index = s.index := rfl
@[simp] theorem State.setReg_pc (s : State) (x : Reg) (v : Byte) : (s.setReg x v).pc = s.pc := rfl
@[simp] theorem State.setReg_stack (s : State) (x : Reg) (v : Byte) : (s.setReg x v).stack = s.stack := rfl
@[simp] theorem State.setReg_sp (s : State) (x : Reg) (v : Byte) : (s.setReg x v).sp = s.sp := rfl
@[simp] theorem State.setReg_dt (s : State) (x : Reg) (v : Byte) : (s.setReg x v).dt = s.dt := rfl
@[simp] theorem State.setReg_st (s : State) (x : Reg) (v : Byte) : (s.setReg x v).st = s.st := rfl
@[simp] theorem State.setReg_tone (s : State) (x : Reg) (v : Byte) : (s.setReg x v).tone = s.tone := rfl
@[simp] theorem State.setReg_fb (s : State) (x : Reg) (v : Byte) : (s.setReg x v).fb = s.fb := rfl
@[simp] theorem State.setReg_mem (s : State) (x : Reg) (v : Byte) : (s.setReg x v).mem = s.mem := rfl
@[simp] theorem State.setReg_run (s : State) (x : Reg) (v : Byte) : (s.setReg x v).run = s.run := rfl
@[simp] theorem State.setReg_keys (s : State) (x : Reg) (v : Byte) : (s.setReg x v).keys = s.keys := rfl
@[simp] theorem State.setReg_waitBase (s : State) (x : Reg) (v : Byte) : (s.setReg x v).waitBase = s.waitBase := rfl
@[simp] theorem State.setReg_rand (s : State) (x : Reg) (v : Byte) : (s.setReg x v).rand = s.rand := rfl
@[simp] theorem State.setReg_vfDestPolicy (s : State) (x : Reg) (v : Byte) : (s.setReg x v).vfDestPolicy = s.vfDestPolicy := rfl
@[simp] theorem State.setReg_agenda (s : State) (x : Reg) (v : Byte) : (s.setReg x v).agenda = s.agenda := rfl
@[simp] theorem State.setReg_inputIndex (s : State) (x : Reg) (v : Byte) : (s.setReg x v).inputIndex = s.inputIndex := rfl

/-! ### `State.setRegs` -/

@[simp] theorem State.setRegs_regs (s : State) (v : Vector Byte 16) : (s.setRegs v).regs = v := rfl
@[simp] theorem State.setRegs_index (s : State) (v : Vector Byte 16) : (s.setRegs v).index = s.index := rfl
@[simp] theorem State.setRegs_pc (s : State) (v : Vector Byte 16) : (s.setRegs v).pc = s.pc := rfl
@[simp] theorem State.setRegs_stack (s : State) (v : Vector Byte 16) : (s.setRegs v).stack = s.stack := rfl
@[simp] theorem State.setRegs_sp (s : State) (v : Vector Byte 16) : (s.setRegs v).sp = s.sp := rfl
@[simp] theorem State.setRegs_dt (s : State) (v : Vector Byte 16) : (s.setRegs v).dt = s.dt := rfl
@[simp] theorem State.setRegs_st (s : State) (v : Vector Byte 16) : (s.setRegs v).st = s.st := rfl
@[simp] theorem State.setRegs_tone (s : State) (v : Vector Byte 16) : (s.setRegs v).tone = s.tone := rfl
@[simp] theorem State.setRegs_fb (s : State) (v : Vector Byte 16) : (s.setRegs v).fb = s.fb := rfl
@[simp] theorem State.setRegs_mem (s : State) (v : Vector Byte 16) : (s.setRegs v).mem = s.mem := rfl
@[simp] theorem State.setRegs_run (s : State) (v : Vector Byte 16) : (s.setRegs v).run = s.run := rfl
@[simp] theorem State.setRegs_keys (s : State) (v : Vector Byte 16) : (s.setRegs v).keys = s.keys := rfl
@[simp] theorem State.setRegs_waitBase (s : State) (v : Vector Byte 16) : (s.setRegs v).waitBase = s.waitBase := rfl
@[simp] theorem State.setRegs_rand (s : State) (v : Vector Byte 16) : (s.setRegs v).rand = s.rand := rfl
@[simp] theorem State.setRegs_vfDestPolicy (s : State) (v : Vector Byte 16) : (s.setRegs v).vfDestPolicy = s.vfDestPolicy := rfl
@[simp] theorem State.setRegs_agenda (s : State) (v : Vector Byte 16) : (s.setRegs v).agenda = s.agenda := rfl
@[simp] theorem State.setRegs_inputIndex (s : State) (v : Vector Byte 16) : (s.setRegs v).inputIndex = s.inputIndex := rfl

/-! ### `State.setIndex` -/

@[simp] theorem State.setIndex_regs (s : State) (v : Word) : (s.setIndex v).regs = s.regs := rfl
@[simp] theorem State.setIndex_index (s : State) (v : Word) : (s.setIndex v).index = v := rfl
@[simp] theorem State.setIndex_pc (s : State) (v : Word) : (s.setIndex v).pc = s.pc := rfl
@[simp] theorem State.setIndex_stack (s : State) (v : Word) : (s.setIndex v).stack = s.stack := rfl
@[simp] theorem State.setIndex_sp (s : State) (v : Word) : (s.setIndex v).sp = s.sp := rfl
@[simp] theorem State.setIndex_dt (s : State) (v : Word) : (s.setIndex v).dt = s.dt := rfl
@[simp] theorem State.setIndex_st (s : State) (v : Word) : (s.setIndex v).st = s.st := rfl
@[simp] theorem State.setIndex_tone (s : State) (v : Word) : (s.setIndex v).tone = s.tone := rfl
@[simp] theorem State.setIndex_fb (s : State) (v : Word) : (s.setIndex v).fb = s.fb := rfl
@[simp] theorem State.setIndex_mem (s : State) (v : Word) : (s.setIndex v).mem = s.mem := rfl
@[simp] theorem State.setIndex_run (s : State) (v : Word) : (s.setIndex v).run = s.run := rfl
@[simp] theorem State.setIndex_keys (s : State) (v : Word) : (s.setIndex v).keys = s.keys := rfl
@[simp] theorem State.setIndex_waitBase (s : State) (v : Word) : (s.setIndex v).waitBase = s.waitBase := rfl
@[simp] theorem State.setIndex_rand (s : State) (v : Word) : (s.setIndex v).rand = s.rand := rfl
@[simp] theorem State.setIndex_vfDestPolicy (s : State) (v : Word) : (s.setIndex v).vfDestPolicy = s.vfDestPolicy := rfl
@[simp] theorem State.setIndex_agenda (s : State) (v : Word) : (s.setIndex v).agenda = s.agenda := rfl
@[simp] theorem State.setIndex_inputIndex (s : State) (v : Word) : (s.setIndex v).inputIndex = s.inputIndex := rfl

/-! ### `State.setPc` -/

@[simp] theorem State.setPc_regs (s : State) (v : Word) : (s.setPc v).regs = s.regs := rfl
@[simp] theorem State.setPc_index (s : State) (v : Word) : (s.setPc v).index = s.index := rfl
@[simp] theorem State.setPc_pc (s : State) (v : Word) : (s.setPc v).pc = v := rfl
@[simp] theorem State.setPc_stack (s : State) (v : Word) : (s.setPc v).stack = s.stack := rfl
@[simp] theorem State.setPc_sp (s : State) (v : Word) : (s.setPc v).sp = s.sp := rfl
@[simp] theorem State.setPc_dt (s : State) (v : Word) : (s.setPc v).dt = s.dt := rfl
@[simp] theorem State.setPc_st (s : State) (v : Word) : (s.setPc v).st = s.st := rfl
@[simp] theorem State.setPc_tone (s : State) (v : Word) : (s.setPc v).tone = s.tone := rfl
@[simp] theorem State.setPc_fb (s : State) (v : Word) : (s.setPc v).fb = s.fb := rfl
@[simp] theorem State.setPc_mem (s : State) (v : Word) : (s.setPc v).mem = s.mem := rfl
@[simp] theorem State.setPc_run (s : State) (v : Word) : (s.setPc v).run = s.run := rfl
@[simp] theorem State.setPc_keys (s : State) (v : Word) : (s.setPc v).keys = s.keys := rfl
@[simp] theorem State.setPc_waitBase (s : State) (v : Word) : (s.setPc v).waitBase = s.waitBase := rfl
@[simp] theorem State.setPc_rand (s : State) (v : Word) : (s.setPc v).rand = s.rand := rfl
@[simp] theorem State.setPc_vfDestPolicy (s : State) (v : Word) : (s.setPc v).vfDestPolicy = s.vfDestPolicy := rfl
@[simp] theorem State.setPc_agenda (s : State) (v : Word) : (s.setPc v).agenda = s.agenda := rfl
@[simp] theorem State.setPc_inputIndex (s : State) (v : Word) : (s.setPc v).inputIndex = s.inputIndex := rfl

/-! ### `State.advance` -/

@[simp] theorem State.advance_regs (s : State) : s.advance.regs = s.regs := rfl
@[simp] theorem State.advance_index (s : State) : s.advance.index = s.index := rfl
@[simp] theorem State.advance_pc (s : State) : s.advance.pc = s.pc + 2 := rfl
@[simp] theorem State.advance_stack (s : State) : s.advance.stack = s.stack := rfl
@[simp] theorem State.advance_sp (s : State) : s.advance.sp = s.sp := rfl
@[simp] theorem State.advance_dt (s : State) : s.advance.dt = s.dt := rfl
@[simp] theorem State.advance_st (s : State) : s.advance.st = s.st := rfl
@[simp] theorem State.advance_tone (s : State) : s.advance.tone = s.tone := rfl
@[simp] theorem State.advance_fb (s : State) : s.advance.fb = s.fb := rfl
@[simp] theorem State.advance_mem (s : State) : s.advance.mem = s.mem := rfl
@[simp] theorem State.advance_run (s : State) : s.advance.run = s.run := rfl
@[simp] theorem State.advance_keys (s : State) : s.advance.keys = s.keys := rfl
@[simp] theorem State.advance_waitBase (s : State) : s.advance.waitBase = s.waitBase := rfl
@[simp] theorem State.advance_rand (s : State) : s.advance.rand = s.rand := rfl
@[simp] theorem State.advance_vfDestPolicy (s : State) : s.advance.vfDestPolicy = s.vfDestPolicy := rfl
@[simp] theorem State.advance_agenda (s : State) : s.advance.agenda = s.agenda := rfl
@[simp] theorem State.advance_inputIndex (s : State) : s.advance.inputIndex = s.inputIndex := rfl

/-! ### `State.setMem` -/

@[simp] theorem State.setMem_regs (s : State) (m : Memory) : (s.setMem m).regs = s.regs := rfl
@[simp] theorem State.setMem_index (s : State) (m : Memory) : (s.setMem m).index = s.index := rfl
@[simp] theorem State.setMem_pc (s : State) (m : Memory) : (s.setMem m).pc = s.pc := rfl
@[simp] theorem State.setMem_stack (s : State) (m : Memory) : (s.setMem m).stack = s.stack := rfl
@[simp] theorem State.setMem_sp (s : State) (m : Memory) : (s.setMem m).sp = s.sp := rfl
@[simp] theorem State.setMem_dt (s : State) (m : Memory) : (s.setMem m).dt = s.dt := rfl
@[simp] theorem State.setMem_st (s : State) (m : Memory) : (s.setMem m).st = s.st := rfl
@[simp] theorem State.setMem_tone (s : State) (m : Memory) : (s.setMem m).tone = s.tone := rfl
@[simp] theorem State.setMem_fb (s : State) (m : Memory) : (s.setMem m).fb = s.fb := rfl
@[simp] theorem State.setMem_mem (s : State) (m : Memory) : (s.setMem m).mem = m := rfl
@[simp] theorem State.setMem_run (s : State) (m : Memory) : (s.setMem m).run = s.run := rfl
@[simp] theorem State.setMem_keys (s : State) (m : Memory) : (s.setMem m).keys = s.keys := rfl
@[simp] theorem State.setMem_waitBase (s : State) (m : Memory) : (s.setMem m).waitBase = s.waitBase := rfl
@[simp] theorem State.setMem_rand (s : State) (m : Memory) : (s.setMem m).rand = s.rand := rfl
@[simp] theorem State.setMem_vfDestPolicy (s : State) (m : Memory) : (s.setMem m).vfDestPolicy = s.vfDestPolicy := rfl
@[simp] theorem State.setMem_agenda (s : State) (m : Memory) : (s.setMem m).agenda = s.agenda := rfl
@[simp] theorem State.setMem_inputIndex (s : State) (m : Memory) : (s.setMem m).inputIndex = s.inputIndex := rfl

/-! ### `State.setFb` -/

@[simp] theorem State.setFb_regs (s : State) (f : Framebuffer) : (s.setFb f).regs = s.regs := rfl
@[simp] theorem State.setFb_index (s : State) (f : Framebuffer) : (s.setFb f).index = s.index := rfl
@[simp] theorem State.setFb_pc (s : State) (f : Framebuffer) : (s.setFb f).pc = s.pc := rfl
@[simp] theorem State.setFb_stack (s : State) (f : Framebuffer) : (s.setFb f).stack = s.stack := rfl
@[simp] theorem State.setFb_sp (s : State) (f : Framebuffer) : (s.setFb f).sp = s.sp := rfl
@[simp] theorem State.setFb_dt (s : State) (f : Framebuffer) : (s.setFb f).dt = s.dt := rfl
@[simp] theorem State.setFb_st (s : State) (f : Framebuffer) : (s.setFb f).st = s.st := rfl
@[simp] theorem State.setFb_tone (s : State) (f : Framebuffer) : (s.setFb f).tone = s.tone := rfl
@[simp] theorem State.setFb_fb (s : State) (f : Framebuffer) : (s.setFb f).fb = f := rfl
@[simp] theorem State.setFb_mem (s : State) (f : Framebuffer) : (s.setFb f).mem = s.mem := rfl
@[simp] theorem State.setFb_run (s : State) (f : Framebuffer) : (s.setFb f).run = s.run := rfl
@[simp] theorem State.setFb_keys (s : State) (f : Framebuffer) : (s.setFb f).keys = s.keys := rfl
@[simp] theorem State.setFb_waitBase (s : State) (f : Framebuffer) : (s.setFb f).waitBase = s.waitBase := rfl
@[simp] theorem State.setFb_rand (s : State) (f : Framebuffer) : (s.setFb f).rand = s.rand := rfl
@[simp] theorem State.setFb_vfDestPolicy (s : State) (f : Framebuffer) : (s.setFb f).vfDestPolicy = s.vfDestPolicy := rfl
@[simp] theorem State.setFb_agenda (s : State) (f : Framebuffer) : (s.setFb f).agenda = s.agenda := rfl
@[simp] theorem State.setFb_inputIndex (s : State) (f : Framebuffer) : (s.setFb f).inputIndex = s.inputIndex := rfl

/-! ### `State.setDt` -/

@[simp] theorem State.setDt_regs (s : State) (v : Byte) : (s.setDt v).regs = s.regs := rfl
@[simp] theorem State.setDt_index (s : State) (v : Byte) : (s.setDt v).index = s.index := rfl
@[simp] theorem State.setDt_pc (s : State) (v : Byte) : (s.setDt v).pc = s.pc := rfl
@[simp] theorem State.setDt_stack (s : State) (v : Byte) : (s.setDt v).stack = s.stack := rfl
@[simp] theorem State.setDt_sp (s : State) (v : Byte) : (s.setDt v).sp = s.sp := rfl
@[simp] theorem State.setDt_dt (s : State) (v : Byte) : (s.setDt v).dt = v := rfl
@[simp] theorem State.setDt_st (s : State) (v : Byte) : (s.setDt v).st = s.st := rfl
@[simp] theorem State.setDt_tone (s : State) (v : Byte) : (s.setDt v).tone = s.tone := rfl
@[simp] theorem State.setDt_fb (s : State) (v : Byte) : (s.setDt v).fb = s.fb := rfl
@[simp] theorem State.setDt_mem (s : State) (v : Byte) : (s.setDt v).mem = s.mem := rfl
@[simp] theorem State.setDt_run (s : State) (v : Byte) : (s.setDt v).run = s.run := rfl
@[simp] theorem State.setDt_keys (s : State) (v : Byte) : (s.setDt v).keys = s.keys := rfl
@[simp] theorem State.setDt_waitBase (s : State) (v : Byte) : (s.setDt v).waitBase = s.waitBase := rfl
@[simp] theorem State.setDt_rand (s : State) (v : Byte) : (s.setDt v).rand = s.rand := rfl
@[simp] theorem State.setDt_vfDestPolicy (s : State) (v : Byte) : (s.setDt v).vfDestPolicy = s.vfDestPolicy := rfl
@[simp] theorem State.setDt_agenda (s : State) (v : Byte) : (s.setDt v).agenda = s.agenda := rfl
@[simp] theorem State.setDt_inputIndex (s : State) (v : Byte) : (s.setDt v).inputIndex = s.inputIndex := rfl

/-! ### `State.storeSound` -/

@[simp] theorem State.storeSound_regs (s : State) (v : Byte) : (s.storeSound v).regs = s.regs := rfl
@[simp] theorem State.storeSound_index (s : State) (v : Byte) : (s.storeSound v).index = s.index := rfl
@[simp] theorem State.storeSound_pc (s : State) (v : Byte) : (s.storeSound v).pc = s.pc := rfl
@[simp] theorem State.storeSound_stack (s : State) (v : Byte) : (s.storeSound v).stack = s.stack := rfl
@[simp] theorem State.storeSound_sp (s : State) (v : Byte) : (s.storeSound v).sp = s.sp := rfl
@[simp] theorem State.storeSound_dt (s : State) (v : Byte) : (s.storeSound v).dt = s.dt := rfl
@[simp] theorem State.storeSound_st (s : State) (v : Byte) : (s.storeSound v).st = v := rfl
@[simp] theorem State.storeSound_tone (s : State) (v : Byte) : (s.storeSound v).tone = (s.tone || decide (v ≠ 0)) := rfl
@[simp] theorem State.storeSound_fb (s : State) (v : Byte) : (s.storeSound v).fb = s.fb := rfl
@[simp] theorem State.storeSound_mem (s : State) (v : Byte) : (s.storeSound v).mem = s.mem := rfl
@[simp] theorem State.storeSound_run (s : State) (v : Byte) : (s.storeSound v).run = s.run := rfl
@[simp] theorem State.storeSound_keys (s : State) (v : Byte) : (s.storeSound v).keys = s.keys := rfl
@[simp] theorem State.storeSound_waitBase (s : State) (v : Byte) : (s.storeSound v).waitBase = s.waitBase := rfl
@[simp] theorem State.storeSound_rand (s : State) (v : Byte) : (s.storeSound v).rand = s.rand := rfl
@[simp] theorem State.storeSound_vfDestPolicy (s : State) (v : Byte) : (s.storeSound v).vfDestPolicy = s.vfDestPolicy := rfl
@[simp] theorem State.storeSound_agenda (s : State) (v : Byte) : (s.storeSound v).agenda = s.agenda := rfl
@[simp] theorem State.storeSound_inputIndex (s : State) (v : Byte) : (s.storeSound v).inputIndex = s.inputIndex := rfl

/-! ### `State.raise` -/

@[simp] theorem State.raise_regs (s : State) (k : FaultKind) : (s.raise k).regs = s.regs := rfl
@[simp] theorem State.raise_index (s : State) (k : FaultKind) : (s.raise k).index = s.index := rfl
@[simp] theorem State.raise_pc (s : State) (k : FaultKind) : (s.raise k).pc = s.pc := rfl
@[simp] theorem State.raise_stack (s : State) (k : FaultKind) : (s.raise k).stack = s.stack := rfl
@[simp] theorem State.raise_sp (s : State) (k : FaultKind) : (s.raise k).sp = s.sp := rfl
@[simp] theorem State.raise_dt (s : State) (k : FaultKind) : (s.raise k).dt = s.dt := rfl
@[simp] theorem State.raise_st (s : State) (k : FaultKind) : (s.raise k).st = s.st := rfl
@[simp] theorem State.raise_tone (s : State) (k : FaultKind) : (s.raise k).tone = s.tone := rfl
@[simp] theorem State.raise_fb (s : State) (k : FaultKind) : (s.raise k).fb = s.fb := rfl
@[simp] theorem State.raise_mem (s : State) (k : FaultKind) : (s.raise k).mem = s.mem := rfl
@[simp] theorem State.raise_run (s : State) (k : FaultKind) : (s.raise k).run = .faulted k := rfl
@[simp] theorem State.raise_keys (s : State) (k : FaultKind) : (s.raise k).keys = s.keys := rfl
@[simp] theorem State.raise_waitBase (s : State) (k : FaultKind) : (s.raise k).waitBase = s.waitBase := rfl
@[simp] theorem State.raise_rand (s : State) (k : FaultKind) : (s.raise k).rand = s.rand := rfl
@[simp] theorem State.raise_vfDestPolicy (s : State) (k : FaultKind) : (s.raise k).vfDestPolicy = s.vfDestPolicy := rfl
@[simp] theorem State.raise_agenda (s : State) (k : FaultKind) : (s.raise k).agenda = s.agenda := rfl
@[simp] theorem State.raise_inputIndex (s : State) (k : FaultKind) : (s.raise k).inputIndex = s.inputIndex := rfl

/-! ### `State.pushPc` -/

@[simp] theorem State.pushPc_regs (s : State) : s.pushPc.regs = s.regs := rfl
@[simp] theorem State.pushPc_index (s : State) : s.pushPc.index = s.index := rfl
@[simp] theorem State.pushPc_pc (s : State) : s.pushPc.pc = s.pc := rfl
@[simp] theorem State.pushPc_stack (s : State) : s.pushPc.stack = s.stack.setIfInBounds s.sp.val s.pc := rfl
@[simp] theorem State.pushPc_dt (s : State) : s.pushPc.dt = s.dt := rfl
@[simp] theorem State.pushPc_st (s : State) : s.pushPc.st = s.st := rfl
@[simp] theorem State.pushPc_tone (s : State) : s.pushPc.tone = s.tone := rfl
@[simp] theorem State.pushPc_fb (s : State) : s.pushPc.fb = s.fb := rfl
@[simp] theorem State.pushPc_mem (s : State) : s.pushPc.mem = s.mem := rfl
@[simp] theorem State.pushPc_run (s : State) : s.pushPc.run = s.run := rfl
@[simp] theorem State.pushPc_keys (s : State) : s.pushPc.keys = s.keys := rfl
@[simp] theorem State.pushPc_waitBase (s : State) : s.pushPc.waitBase = s.waitBase := rfl
@[simp] theorem State.pushPc_rand (s : State) : s.pushPc.rand = s.rand := rfl
@[simp] theorem State.pushPc_vfDestPolicy (s : State) : s.pushPc.vfDestPolicy = s.vfDestPolicy := rfl
@[simp] theorem State.pushPc_agenda (s : State) : s.pushPc.agenda = s.agenda := rfl
@[simp] theorem State.pushPc_inputIndex (s : State) : s.pushPc.inputIndex = s.inputIndex := rfl

/-! ### `State.popPc` -/

@[simp] theorem State.popPc_regs (s : State) : s.popPc.regs = s.regs := rfl
@[simp] theorem State.popPc_index (s : State) : s.popPc.index = s.index := rfl
@[simp] theorem State.popPc_pc (s : State) : s.popPc.pc = s.stack.getD (s.sp.val - 1) 0 := rfl
@[simp] theorem State.popPc_stack (s : State) : s.popPc.stack = s.stack := rfl
@[simp] theorem State.popPc_dt (s : State) : s.popPc.dt = s.dt := rfl
@[simp] theorem State.popPc_st (s : State) : s.popPc.st = s.st := rfl
@[simp] theorem State.popPc_tone (s : State) : s.popPc.tone = s.tone := rfl
@[simp] theorem State.popPc_fb (s : State) : s.popPc.fb = s.fb := rfl
@[simp] theorem State.popPc_mem (s : State) : s.popPc.mem = s.mem := rfl
@[simp] theorem State.popPc_run (s : State) : s.popPc.run = s.run := rfl
@[simp] theorem State.popPc_keys (s : State) : s.popPc.keys = s.keys := rfl
@[simp] theorem State.popPc_waitBase (s : State) : s.popPc.waitBase = s.waitBase := rfl
@[simp] theorem State.popPc_rand (s : State) : s.popPc.rand = s.rand := rfl
@[simp] theorem State.popPc_vfDestPolicy (s : State) : s.popPc.vfDestPolicy = s.vfDestPolicy := rfl
@[simp] theorem State.popPc_agenda (s : State) : s.popPc.agenda = s.agenda := rfl
@[simp] theorem State.popPc_inputIndex (s : State) : s.popPc.inputIndex = s.inputIndex := rfl

/-! ### `State.tick` -/

@[simp] theorem State.tick_regs (s : State) : s.tick.regs = s.regs := rfl
@[simp] theorem State.tick_index (s : State) : s.tick.index = s.index := rfl
@[simp] theorem State.tick_pc (s : State) : s.tick.pc = s.pc := rfl
@[simp] theorem State.tick_stack (s : State) : s.tick.stack = s.stack := rfl
@[simp] theorem State.tick_sp (s : State) : s.tick.sp = s.sp := rfl
@[simp] theorem State.tick_dt (s : State) : s.tick.dt = if s.dt = 0 then s.dt else s.dt - 1 := rfl
@[simp] theorem State.tick_st (s : State) : s.tick.st = if s.st = 0 then s.st else s.st - 1 := rfl
@[simp] theorem State.tick_tone (s : State) : s.tick.tone = if s.st = 1 then false else s.tone := rfl
@[simp] theorem State.tick_fb (s : State) : s.tick.fb = s.fb := rfl
@[simp] theorem State.tick_mem (s : State) : s.tick.mem = s.mem := rfl
@[simp] theorem State.tick_run (s : State) : s.tick.run = s.run := rfl
@[simp] theorem State.tick_keys (s : State) : s.tick.keys = s.keys := rfl
@[simp] theorem State.tick_waitBase (s : State) : s.tick.waitBase = s.waitBase := rfl
@[simp] theorem State.tick_rand (s : State) : s.tick.rand = s.rand := rfl
@[simp] theorem State.tick_vfDestPolicy (s : State) : s.tick.vfDestPolicy = s.vfDestPolicy := rfl
@[simp] theorem State.tick_agenda (s : State) : s.tick.agenda = s.agenda := rfl
@[simp] theorem State.tick_inputIndex (s : State) : s.tick.inputIndex = s.inputIndex := rfl

/-! ### `State.present` -/

@[simp] theorem State.present_regs (s : State) (i : Input) : (s.present i).regs = s.regs := rfl
@[simp] theorem State.present_index (s : State) (i : Input) : (s.present i).index = s.index := rfl
@[simp] theorem State.present_pc (s : State) (i : Input) : (s.present i).pc = s.pc := rfl
@[simp] theorem State.present_stack (s : State) (i : Input) : (s.present i).stack = s.stack := rfl
@[simp] theorem State.present_sp (s : State) (i : Input) : (s.present i).sp = s.sp := rfl
@[simp] theorem State.present_dt (s : State) (i : Input) : (s.present i).dt = s.dt := rfl
@[simp] theorem State.present_st (s : State) (i : Input) : (s.present i).st = s.st := rfl
@[simp] theorem State.present_tone (s : State) (i : Input) : (s.present i).tone = s.tone := rfl
@[simp] theorem State.present_fb (s : State) (i : Input) : (s.present i).fb = s.fb := rfl
@[simp] theorem State.present_mem (s : State) (i : Input) : (s.present i).mem = s.mem := rfl
@[simp] theorem State.present_run (s : State) (i : Input) : (s.present i).run = s.run := rfl
@[simp] theorem State.present_keys (s : State) (i : Input) : (s.present i).keys = i.keyLevel := rfl
@[simp] theorem State.present_waitBase (s : State) (i : Input) : (s.present i).waitBase = s.waitBase := rfl
@[simp] theorem State.present_rand (s : State) (i : Input) : (s.present i).rand = i.rand := rfl
@[simp] theorem State.present_vfDestPolicy (s : State) (i : Input) : (s.present i).vfDestPolicy = s.vfDestPolicy := rfl
@[simp] theorem State.present_agenda (s : State) (i : Input) : (s.present i).agenda = s.agenda := rfl
@[simp] theorem State.present_inputIndex (s : State) (i : Input) : (s.present i).inputIndex = s.inputIndex := rfl

/-! ### `State.suspend` -/

@[simp] theorem State.suspend_regs (s : State) (x : Reg) : (s.suspend x).regs = s.regs := rfl
@[simp] theorem State.suspend_index (s : State) (x : Reg) : (s.suspend x).index = s.index := rfl
@[simp] theorem State.suspend_pc (s : State) (x : Reg) : (s.suspend x).pc = s.pc := rfl
@[simp] theorem State.suspend_stack (s : State) (x : Reg) : (s.suspend x).stack = s.stack := rfl
@[simp] theorem State.suspend_sp (s : State) (x : Reg) : (s.suspend x).sp = s.sp := rfl
@[simp] theorem State.suspend_dt (s : State) (x : Reg) : (s.suspend x).dt = s.dt := rfl
@[simp] theorem State.suspend_st (s : State) (x : Reg) : (s.suspend x).st = s.st := rfl
@[simp] theorem State.suspend_tone (s : State) (x : Reg) : (s.suspend x).tone = s.tone := rfl
@[simp] theorem State.suspend_fb (s : State) (x : Reg) : (s.suspend x).fb = s.fb := rfl
@[simp] theorem State.suspend_mem (s : State) (x : Reg) : (s.suspend x).mem = s.mem := rfl
@[simp] theorem State.suspend_run (s : State) (x : Reg) : (s.suspend x).run = .awaitKey x := rfl
@[simp] theorem State.suspend_keys (s : State) (x : Reg) : (s.suspend x).keys = s.keys := rfl
@[simp] theorem State.suspend_waitBase (s : State) (x : Reg) : (s.suspend x).waitBase = s.keys := rfl
@[simp] theorem State.suspend_rand (s : State) (x : Reg) : (s.suspend x).rand = s.rand := rfl
@[simp] theorem State.suspend_vfDestPolicy (s : State) (x : Reg) : (s.suspend x).vfDestPolicy = s.vfDestPolicy := rfl
@[simp] theorem State.suspend_agenda (s : State) (x : Reg) : (s.suspend x).agenda = s.agenda := rfl
@[simp] theorem State.suspend_inputIndex (s : State) (x : Reg) : (s.suspend x).inputIndex = s.inputIndex := rfl

@[simp] theorem State.popPc_sp (s : State) : s.popPc.sp.val = s.sp.val - 1 := rfl

theorem State.pushPc_sp (s : State) (h : s.sp.val < 16) : s.pushPc.sp.val = s.sp.val + 1 := by simp [State.pushPc, h]

/-! ### `State.takeInput` -/

@[simp] theorem State.takeInput_regs (s : State) : s.takeInput.regs = s.regs := by unfold State.takeInput; split <;> rfl
@[simp] theorem State.takeInput_index (s : State) : s.takeInput.index = s.index := by unfold State.takeInput; split <;> rfl
@[simp] theorem State.takeInput_pc (s : State) : s.takeInput.pc = s.pc := by unfold State.takeInput; split <;> rfl
@[simp] theorem State.takeInput_stack (s : State) : s.takeInput.stack = s.stack := by unfold State.takeInput; split <;> rfl
@[simp] theorem State.takeInput_sp (s : State) : s.takeInput.sp = s.sp := by unfold State.takeInput; split <;> rfl
@[simp] theorem State.takeInput_dt (s : State) : s.takeInput.dt = s.dt := by unfold State.takeInput; split <;> rfl
@[simp] theorem State.takeInput_st (s : State) : s.takeInput.st = s.st := by unfold State.takeInput; split <;> rfl
@[simp] theorem State.takeInput_tone (s : State) : s.takeInput.tone = s.tone := by unfold State.takeInput; split <;> rfl
@[simp] theorem State.takeInput_fb (s : State) : s.takeInput.fb = s.fb := by unfold State.takeInput; split <;> rfl
@[simp] theorem State.takeInput_mem (s : State) : s.takeInput.mem = s.mem := by unfold State.takeInput; split <;> rfl
@[simp] theorem State.takeInput_run (s : State) : s.takeInput.run = s.run := by unfold State.takeInput; split <;> rfl
@[simp] theorem State.takeInput_keys (s : State) : s.takeInput.keys = s.keys := by unfold State.takeInput; split <;> rfl
@[simp] theorem State.takeInput_waitBase (s : State) : s.takeInput.waitBase = s.waitBase := by unfold State.takeInput; split <;> rfl
@[simp] theorem State.takeInput_rand (s : State) : s.takeInput.rand = s.rand := by unfold State.takeInput; split <;> rfl
@[simp] theorem State.takeInput_vfDestPolicy (s : State) : s.takeInput.vfDestPolicy = s.vfDestPolicy := by unfold State.takeInput; split <;> rfl

/-- The listed inputs come in order. -/
theorem State.input_of_agenda (s : State) (i : Input) (rest : List Input) (h : s.agenda = i :: rest) : s.input = i := by
  simp [State.input, h]

theorem State.takeInput_of_agenda (s : State) (i : Input) (rest : List Input) (h : s.agenda = i :: rest) :
    s.takeInput = { s with agenda := rest } := by
  simp [State.takeInput, h]

/-! ### Reading registers -/

theorem State.reg_setReg (s : State) (x r : Reg) (v : Byte) : (s.setReg x v).reg r = if r = x then v else s.reg r := by
  simp only [State.reg, State.setReg, Fin.getElem_fin, Vector.getElem_set, Fin.ext_iff, eq_comm]

@[simp] theorem State.reg_setReg_self (s : State) (x : Reg) (v : Byte) : (s.setReg x v).reg x = v := by
  simp [State.reg_setReg]

@[simp] theorem State.reg_setReg_ne (s : State) (x r : Reg) (v : Byte) (h : r ≠ x) : (s.setReg x v).reg r = s.reg r := by
  simp [State.reg_setReg, h]

/-- The later of two writes to one register stands. -/
theorem State.setReg_setReg_self (s : State) (x : Reg) (a b : Byte) : (s.setReg x a).setReg x b = s.setReg x b := by
  simp [State.setReg]

/-- Writes to two registers commute. -/
theorem State.setReg_comm (s : State) (x r : Reg) (a v : Byte) (h : r ≠ x) :
    (s.setReg r v).setReg x a = (s.setReg x a).setReg r v := by
  have hne : ¬ r.val = x.val := fun e => h (Fin.ext e)
  simp only [State.setReg]
  congr 1
  exact Vector.set_comm _ _ hne

/-- Registers are read from the register file alone. -/
theorem State.reg_congr (s t : State) (h : t.regs = s.regs) (r : Reg) : t.reg r = s.reg r := by
  simp [State.reg, h]

@[simp] theorem State.reg_setIndex (s : State) (v : Word) (r : Reg) : (s.setIndex v).reg r = s.reg r := rfl
@[simp] theorem State.reg_setPc (s : State) (v : Word) (r : Reg) : (s.setPc v).reg r = s.reg r := rfl
@[simp] theorem State.reg_advance (s : State) (r : Reg) : s.advance.reg r = s.reg r := rfl
@[simp] theorem State.reg_setMem (s : State) (m : Memory) (r : Reg) : (s.setMem m).reg r = s.reg r := rfl
@[simp] theorem State.reg_setFb (s : State) (f : Framebuffer) (r : Reg) : (s.setFb f).reg r = s.reg r := rfl
@[simp] theorem State.reg_setDt (s : State) (v : Byte) (r : Reg) : (s.setDt v).reg r = s.reg r := rfl
@[simp] theorem State.reg_storeSound (s : State) (v : Byte) (r : Reg) : (s.storeSound v).reg r = s.reg r := rfl
@[simp] theorem State.reg_raise (s : State) (k : FaultKind) (r : Reg) : (s.raise k).reg r = s.reg r := rfl
@[simp] theorem State.reg_pushPc (s : State) (r : Reg) : s.pushPc.reg r = s.reg r := rfl
@[simp] theorem State.reg_popPc (s : State) (r : Reg) : s.popPc.reg r = s.reg r := rfl
@[simp] theorem State.reg_tick (s : State) (r : Reg) : s.tick.reg r = s.reg r := rfl
@[simp] theorem State.reg_present (s : State) (i : Input) (r : Reg) : (s.present i).reg r = s.reg r := rfl
@[simp] theorem State.reg_suspend (s : State) (x : Reg) (r : Reg) : (s.suspend x).reg r = s.reg r := rfl
@[simp] theorem State.reg_takeInput (s : State) (r : Reg) : s.takeInput.reg r = s.reg r := by simp [State.reg]

/-- The flag write is a register write. -/
theorem State.setFlag_eq (s : State) (b : Bool) : s.setFlag b = s.setReg 15 (flagByte b) := rfl

/-- A byte is read from memory alone. -/
theorem State.readByte_congr (s t : State) (h : t.mem = s.mem) (a : Nat) : t.readByte a = s.readByte a := by
  simp [State.readByte, h]

/-! ### Frames -/

/-- A frame from the equality of every field that is not listed. -/
theorem UnchangedBut.of_fields (cs : List Component) (s t : State)
    (regs : .regs ∉ cs → t.regs = s.regs) (index : .index ∉ cs → t.index = s.index) (pc : .pc ∉ cs → t.pc = s.pc)
    (stack : .stack ∉ cs → t.stack = s.stack) (sp : .sp ∉ cs → t.sp = s.sp) (dt : .dt ∉ cs → t.dt = s.dt)
    (st : .st ∉ cs → t.st = s.st) (tone : .tone ∉ cs → t.tone = s.tone) (fb : .fb ∉ cs → t.fb = s.fb)
    (mem : .mem ∉ cs → t.mem = s.mem) (run : .run ∉ cs → t.run = s.run) (keys : .keys ∉ cs → t.keys = s.keys)
    (waitBase : .waitBase ∉ cs → t.waitBase = s.waitBase) (rand : .rand ∉ cs → t.rand = s.rand)
    (policy : .policy ∉ cs → t.vfDestPolicy = s.vfDestPolicy) (agenda : .agenda ∉ cs → t.agenda = s.agenda)
    (inputIndex : .inputIndex ∉ cs → t.inputIndex = s.inputIndex) : UnchangedBut cs s t := by
  intro c hc
  cases c <;> simp only [Component.Same]
  case regs => exact State.reg_congr s t (regs hc)
  case stack => simp [stack hc]
  case fb => simp [fb hc]
  case mem => exact State.readByte_congr s t (mem hc)
  case index => exact index hc
  case pc => exact pc hc
  case sp => exact sp hc
  case dt => exact dt hc
  case st => exact st hc
  case tone => exact tone hc
  case run => exact run hc
  case keys => exact keys hc
  case waitBase => exact waitBase hc
  case rand => exact rand hc
  case policy => exact policy hc
  case agenda => exact agenda hc
  case inputIndex => exact inputIndex hc

/-- A state is unchanged beside itself, part by part. -/
theorem UnchangedBut.refl (cs : List Component) (s : State) : UnchangedBut cs s s := by
  intro c _
  cases c <;> simp only [Component.Same, implies_true]

end Sys2Proof.Machine
end

