-- ==== Sys2Proof/Laws/Ops.lean ====
section
/-! SUPPORT. For each shared operation, one lemma that says everything it can do. -/

namespace Sys2Proof.Machine

/-! ### Control transfer -/

theorem State.transfer_cases (s : State) (n : Nat) :
    (n ≤ 4094 ∧ s.transfer n = s.setPc (BitVec.ofNat 16 n)) ∨ (4094 < n ∧ s.transfer n = s.raise .addressOutOfRange) := by
  unfold State.transfer maxFetch
  split
  · exact .inr ⟨by omega, rfl⟩
  · exact .inl ⟨by omega, rfl⟩

theorem State.skip_cases (s : State) :
    (s.pc.toNat + 2 ≤ 4094 ∧ s.skip = s.setPc (s.pc + 2)) ∨ (4094 < s.pc.toNat + 2 ∧ s.skip = s.raise .addressOutOfRange) := by
  unfold State.skip maxFetch
  split
  · exact .inr ⟨by omega, rfl⟩
  · exact .inl ⟨by omega, rfl⟩

theorem State.skipIf_cases (s : State) (c : Bool) :
    (c = false ∧ s.skipIf c = s) ∨
    (c = true ∧ s.pc.toNat + 2 ≤ 4094 ∧ s.skipIf c = s.setPc (s.pc + 2)) ∨
    (c = true ∧ 4094 < s.pc.toNat + 2 ∧ s.skipIf c = s.raise .addressOutOfRange) := by
  cases c with
  | false => exact .inl ⟨rfl, rfl⟩
  | true =>
    rcases s.skip_cases with ⟨h, e⟩ | ⟨h, e⟩
    · exact .inr (.inl ⟨rfl, h, e⟩)
    · exact .inr (.inr ⟨rfl, h, e⟩)

/-- An advance below the bound does not wrap. -/
theorem State.pc_add_two (s : State) (h : s.pc.toNat ≤ 4094) : (s.pc + 2).toNat = s.pc.toNat + 2 := by
  rw [BitVec.toNat_add]
  have : (2 : Word).toNat = 2 := rfl
  omega

/-! ### Operands -/

theorem State.digitOperand_of_le (s : State) (x : Reg) (k : Fin 16) (h : (s.reg x).toNat = k.val) :
    s.digitOperand x = some k := by
  simp [State.digitOperand, h]

theorem State.digitOperand_of_gt (s : State) (x : Reg) (h : 15 < (s.reg x).toNat) : s.digitOperand x = none := by
  have hk : ¬ (s.reg x).toNat < 16 := by omega
  simp [State.digitOperand, hk]

theorem State.skipOnKey_cases (s : State) (x : Reg) (level : Bool) :
    (15 < (s.reg x).toNat ∧ s.skipOnKey x level = s.raise .invalidRegisterOperand) ∨
    (∃ k : Key, (s.reg x).toNat = k.val ∧ s.skipOnKey x level = s.skipIf (s.keys.getLsbD k.val == level)) := by
  by_cases h : 15 < (s.reg x).toNat
  · exact .inl ⟨h, by simp [State.skipOnKey, s.digitOperand_of_gt x h]⟩
  · exact .inr ⟨⟨(s.reg x).toNat, by omega⟩, rfl, by
      simp [State.skipOnKey, s.digitOperand_of_le x ⟨(s.reg x).toNat, by omega⟩ rfl]⟩

theorem State.destRefused_iff (s : State) (x : Reg) : s.destRefused x = true ↔ x = 15 ∧ s.vfDestPolicy = .fault := by
  simp [State.destRefused]

theorem State.arith_cases (s : State) (x y : Reg) (f : Byte → Byte → Byte) :
    (x = 15 ∧ s.vfDestPolicy = .fault ∧ s.arith x y f = s.raise .invalidRegisterOperand) ∨
    (¬ (x = 15 ∧ s.vfDestPolicy = .fault) ∧ s.arith x y f = s.setReg x (f (s.reg x) (s.reg y))) := by
  unfold State.arith
  by_cases h : x = 15 ∧ s.vfDestPolicy = .fault
  · exact .inl ⟨h.1, h.2, if_pos ((s.destRefused_iff x).mpr h)⟩
  · exact .inr ⟨h, if_neg (fun e => h ((s.destRefused_iff x).mp e))⟩

theorem State.arithFlag_cases (s : State) (x y : Reg) (f : Byte → Byte → Byte) (flag : Byte → Byte → Bool) :
    (x = 15 ∧ s.vfDestPolicy = .fault ∧ s.arithFlag x y f flag = s.raise .invalidRegisterOperand) ∨
    (¬ (x = 15 ∧ s.vfDestPolicy = .fault) ∧
      s.arithFlag x y f flag =
        (s.setReg x (f (s.reg x) (s.reg y))).setReg 15 (flagByte (flag (s.reg x) (s.reg y)))) := by
  unfold State.arithFlag
  by_cases h : x = 15 ∧ s.vfDestPolicy = .fault
  · exact .inl ⟨h.1, h.2, if_pos ((s.destRefused_iff x).mpr h)⟩
  · exact .inr ⟨h, if_neg (fun e => h ((s.destRefused_iff x).mp e))⟩

/-! ### Memory transfers -/

theorem State.storeAtIndex_cases (s : State) (bs : List Byte) :
    (s.index.toNat + bs.length ≤ 4096 ∧ s.storeAtIndex bs = s.setMem (Memory.writeBytes s.mem s.index.toNat bs)) ∨
    (4096 < s.index.toNat + bs.length ∧ s.storeAtIndex bs = s.raise .addressOutOfRange) := by
  unfold State.storeAtIndex State.dataInRange memSize
  by_cases h : s.index.toNat + bs.length ≤ 4096
  · exact .inl ⟨h, if_pos (decide_eq_true h)⟩
  · exact .inr ⟨by omega, if_neg (by simpa using h)⟩

theorem State.loadFromIndex_cases (s : State) (x : Reg) :
    (s.index.toNat + (x.val + 1) ≤ 4096 ∧
      s.loadFromIndex x = s.setRegs (writeRegsFrom s.regs 0 (Memory.readBytes s.mem s.index.toNat (x.val + 1)))) ∨
    (4096 < s.index.toNat + (x.val + 1) ∧ s.loadFromIndex x = s.raise .addressOutOfRange) := by
  unfold State.loadFromIndex State.dataInRange memSize
  by_cases h : s.index.toNat + (x.val + 1) ≤ 4096
  · exact .inl ⟨h, if_pos (decide_eq_true h)⟩
  · exact .inr ⟨by omega, if_neg (by simpa using h)⟩

@[simp] theorem length_bcdDigits (v : Byte) : (bcdDigits v).length = 3 := rfl

@[simp] theorem State.length_regsUpTo (s : State) (x : Reg) : (s.regsUpTo x).length = x.val + 1 := by
  simp [State.regsUpTo]

/-- The k-th of the registers `V[0..x]` is `V[k]`. -/
theorem State.getD_regsUpTo (s : State) (x r : Reg) (h : r.val ≤ x.val) : (s.regsUpTo x).getD r.val 0 = s.reg r := by
  have h1 : r.val < x.val + 1 := by omega
  simp [State.regsUpTo, State.reg, List.getD_eq_getElem?_getD, h1]

/-- After the write of a list of bytes to `V[k]`, `V[k+1]`, ...: inside the range the byte, outside it the register before. -/
theorem getElem_writeRegsFrom (bs : List Byte) : ∀ (v : Vector Byte 16) (k : Nat) (r : Reg),
    (writeRegsFrom v k bs)[r] = if k ≤ r.val ∧ r.val < k + bs.length then bs.getD (r.val - k) 0 else v[r] := by
  induction bs with
  | nil =>
    intro v k r
    have h : ¬ (k ≤ r.val ∧ r.val < k + 0) := by omega
    simp only [writeRegsFrom, List.length_nil, h, if_false]
  | cons b bs ih =>
    intro v k r
    rw [writeRegsFrom, ih, List.length_cons]
    by_cases h1 : r.val = k
    · have h2 : ¬ (k + 1 ≤ r.val ∧ r.val < k + 1 + bs.length) := by omega
      have h3 : k ≤ r.val ∧ r.val < k + (bs.length + 1) := by omega
      rw [if_neg h2, if_pos h3]
      simp [← h1]
    · by_cases h2 : k + 1 ≤ r.val ∧ r.val < k + 1 + bs.length
      · have h3 : k ≤ r.val ∧ r.val < k + (bs.length + 1) := by omega
        have h4 : r.val - k = (r.val - (k + 1)) + 1 := by omega
        rw [if_pos h2, if_pos h3, h4, List.getD_cons_succ]
      · have h3 : ¬ (k ≤ r.val ∧ r.val < k + (bs.length + 1)) := by omega
        rw [if_neg h2, if_neg h3]
        simp [Ne.symm h1]

/-! ### The framebuffer -/

theorem Framebuffer.cell_setCell (f : Framebuffer) (x px : Fin 64) (y py : Fin 32) (v : Bool) :
    Framebuffer.cell (Framebuffer.setCell f x y v) px py = if px = x ∧ py = y then v else Framebuffer.cell f px py := by
  unfold Framebuffer.cell Framebuffer.setCell
  by_cases hx : px = x
  · subst hx
    by_cases hy : py = y
    · subst hy
      simp
    · have : ¬ y.val = py.val := fun e => hy (Fin.ext e.symm)
      simp [hy, this]
  · have : ¬ x.val = px.val := fun e => hx (Fin.ext e.symm)
    simp [hx, this]

@[simp] theorem Framebuffer.cell_clear (x : Fin 64) (y : Fin 32) : Framebuffer.cell Framebuffer.clear x y = false := by
  simp [Framebuffer.cell, Framebuffer.clear]

/-- One sprite bit toggles its cell. -/
theorem Drawing.cell_bit (d : Drawing) (x px : Fin 64) (y py : Fin 32) (b : Bool) :
    Framebuffer.cell (d.bit x y b).fb px py =
      xor (Framebuffer.cell d.fb px py) (decide (px = x ∧ py = y) && b) := by
  simp only [Drawing.bit, Framebuffer.cell_setCell]
  by_cases h : px = x ∧ py = y
  · simp [h]
  · simp [h]

/-- One sprite bit records a hit on a lit cell. -/
theorem Drawing.collided_bit (d : Drawing) (x : Fin 64) (y : Fin 32) (b : Bool) :
    (d.bit x y b).collided = (d.collided || (Framebuffer.cell d.fb x y && b)) := rfl

/-- The cell `c` columns right of the start, by its offset. -/
theorem eq_wrapX_iff (x0 c : Nat) (px : Fin 64) (hc : c < 64) : px = wrapX (x0 + c) ↔ ringOffset 64 x0 px.val = c := by
  have := px.isLt
  rw [Fin.ext_iff]
  simp only [wrapX, ringOffset]
  omega

/-- The cell `c` rows below the start, by its offset. -/
theorem eq_wrapY_iff (y0 c : Nat) (py : Fin 32) (hc : c < 32) : py = wrapY (y0 + c) ↔ ringOffset 32 y0 py.val = c := by
  have := py.isLt
  rw [Fin.ext_iff]
  simp only [wrapY, ringOffset]
  omega

/-- A run of columns toggles the cells at its offsets, in its row. -/
theorem Drawing.cell_columns (x0 y : Nat) (row : Byte) (px : Fin 64) (py : Fin 32) : ∀ (n c : Nat) (d : Drawing), c + n ≤ 64 →
    Framebuffer.cell (d.columns x0 y row c n).fb px py =
      xor (Framebuffer.cell d.fb px py)
        (decide (py = wrapY y) && decide (c ≤ ringOffset 64 x0 px.val ∧ ringOffset 64 x0 px.val < c + n) &&
          row.getLsbD (7 - ringOffset 64 x0 px.val)) := by
  intro n
  induction n with
  | zero =>
    intro c d _
    have h : ¬ (c ≤ ringOffset 64 x0 px.val ∧ ringOffset 64 x0 px.val < c + 0) := by omega
    rw [Drawing.columns, decide_eq_false h]
    simp
  | succ n ih =>
    intro c d h
    rw [Drawing.columns, ih (c + 1) _ (by omega), Drawing.cell_bit]
    have e := eq_wrapX_iff x0 c px (by omega)
    by_cases hx : ringOffset 64 x0 px.val = c
    · have h1 : ¬ (c + 1 ≤ ringOffset 64 x0 px.val ∧ ringOffset 64 x0 px.val < c + 1 + n) := by omega
      have h2 : c ≤ ringOffset 64 x0 px.val ∧ ringOffset 64 x0 px.val < c + (n + 1) := by omega
      rw [decide_eq_false h1, decide_eq_true h2, hx]
      simp [← e.mpr hx]
    · have h1 : (c + 1 ≤ ringOffset 64 x0 px.val ∧ ringOffset 64 x0 px.val < c + 1 + n) ↔
        (c ≤ ringOffset 64 x0 px.val ∧ ringOffset 64 x0 px.val < c + (n + 1)) := by omega
      have h2 : ¬ px = wrapX (x0 + c) := fun k => hx (e.mp k)
      simp only [h1, h2, false_and, decide_false, Bool.false_and, Bool.xor_false]

/-- A run of columns records a hit iff a set bit falls on a lit cell. -/
theorem Drawing.collided_columns (x0 y : Nat) (row : Byte) : ∀ (n c : Nat) (d : Drawing), c + n ≤ 64 →
    ((d.columns x0 y row c n).collided = true ↔
      d.collided = true ∨ ∃ k, c ≤ k ∧ k < c + n ∧ row.getLsbD (7 - k) = true ∧ Framebuffer.cell d.fb (wrapX (x0 + k)) (wrapY y) = true) := by
  intro n
  induction n with
  | zero =>
    intro c d _
    simp only [Drawing.columns]
    constructor
    · exact .inl
    · rintro (h | ⟨k, h1, h2, _⟩)
      · exact h
      · omega
  | succ n ih =>
    intro c d h
    have keep : ∀ k, c + 1 ≤ k → k < c + 1 + n →
        Framebuffer.cell (d.bit (wrapX (x0 + c)) (wrapY y) (row.getLsbD (7 - c))).fb (wrapX (x0 + k)) (wrapY y) =
          Framebuffer.cell d.fb (wrapX (x0 + k)) (wrapY y) := by
      intro k h1 h2
      have hne : ¬ wrapX (x0 + k) = wrapX (x0 + c) := by
        intro e
        have a := (eq_wrapX_iff x0 k (wrapX (x0 + k)) (by omega)).mp rfl
        have b := (eq_wrapX_iff x0 c (wrapX (x0 + k)) (by omega)).mp e
        omega
      simp [Drawing.cell_bit, hne]
    rw [Drawing.columns, ih (c + 1) _ (by omega), Drawing.collided_bit, Bool.or_eq_true, Bool.and_eq_true, or_assoc]
    refine or_congr_right ?_
    constructor
    · rintro (⟨h1, h2⟩ | ⟨k, h1, h2, h3, h4⟩)
      · exact ⟨c, by omega, by omega, h2, h1⟩
      · exact ⟨k, by omega, by omega, h3, by rw [← keep k h1 h2]; exact h4⟩
    · rintro ⟨k, h1, h2, h3, h4⟩
      by_cases hk : k = c
      · subst hk
        exact .inl ⟨h4, h3⟩
      · exact .inr ⟨k, by omega, by omega, h3, by rw [keep k (by omega) (by omega)]; exact h4⟩

/-- The rows of a sprite toggle exactly the cells their set bits cover. -/
theorem Drawing.cell_rows (x0 : Nat) (px : Fin 64) (py : Fin 32) : ∀ (rows : List Byte) (y : Nat) (d : Drawing), rows.length ≤ 32 →
    Framebuffer.cell (d.rows x0 y rows).fb px py =
      xor (Framebuffer.cell d.fb px py)
        (decide (ringOffset 64 x0 px.val < 8) && decide (ringOffset 32 y py.val < rows.length) &&
          (rows.getD (ringOffset 32 y py.val) 0).getLsbD (7 - ringOffset 64 x0 px.val)) := by
  intro rows
  induction rows with
  | nil => intro y d _; simp [Drawing.rows]
  | cons row rest ih =>
    intro y d h
    rw [List.length_cons] at h
    rw [Drawing.rows, ih (y + 1) _ (by omega), Drawing.cell_columns _ _ _ _ _ _ _ _ (by omega)]
    have e := eq_wrapY_iff y 0 py (by omega)
    have hy := py.isLt
    by_cases h0 : ringOffset 32 y py.val = 0
    · have h1 : ¬ ringOffset 32 (y + 1) py.val < rest.length := by
        unfold ringOffset at h0 ⊢
        omega
      have h2 : py = wrapY y := e.mpr h0
      rw [decide_eq_false h1, decide_eq_true h2, h0]
      simp
    · have h1 : ringOffset 32 (y + 1) py.val + 1 = ringOffset 32 y py.val := by
        unfold ringOffset at h0 ⊢
        omega
      have h2 : ¬ py = wrapY y := fun k => h0 (e.mp k)
      simp [← h1, h2]

/-- The rows of a sprite record a hit iff a set bit falls on a lit cell. -/
theorem Drawing.collided_rows (x0 : Nat) : ∀ (rows : List Byte) (y : Nat) (d : Drawing), rows.length ≤ 32 →
    ((d.rows x0 y rows).collided = true ↔
      d.collided = true ∨ ∃ r k, r < rows.length ∧ k < 8 ∧ (rows.getD r 0).getLsbD (7 - k) = true ∧
        Framebuffer.cell d.fb (wrapX (x0 + k)) (wrapY (y + r)) = true) := by
  intro rows
  induction rows with
  | nil => intro y d _; simp [Drawing.rows]
  | cons row rest ih =>
    intro y d h
    rw [List.length_cons] at h
    have keep : ∀ r k, r < rest.length →
        Framebuffer.cell (d.columns x0 y row 0 8).fb (wrapX (x0 + k)) (wrapY (y + 1 + r)) =
          Framebuffer.cell d.fb (wrapX (x0 + k)) (wrapY (y + 1 + r)) := by
      intro r k hr
      have hne : ¬ wrapY (y + 1 + r) = wrapY y := by
        intro e
        simp only [wrapY, Fin.mk.injEq] at e
        omega
      simp [Drawing.cell_columns _ _ _ _ _ 8 0 _ (by omega), hne]
    rw [Drawing.rows, ih (y + 1) _ (by omega), Drawing.collided_columns _ _ _ _ _ _ (by omega), or_assoc]
    refine or_congr_right ?_
    constructor
    · rintro (⟨k, h1, h2, h3, h4⟩ | ⟨r, k, h1, h2, h3, h4⟩)
      · exact ⟨0, k, by simp, by omega, by simpa using h3, by simpa using h4⟩
      · refine ⟨r + 1, k, by simpa using h1, h2, by simpa using h3, ?_⟩
        rw [keep r k h1] at h4
        rwa [show y + (r + 1) = y + 1 + r by omega]
    · rintro ⟨r, k, h1, h2, h3, h4⟩
      cases r with
      | zero => exact .inl ⟨k, by omega, by omega, by simpa using h3, by simpa using h4⟩
      | succ r =>
        have hr : r < rest.length := by simpa using h1
        refine .inr ⟨r, k, hr, h2, by simpa using h3, ?_⟩
        rw [keep r k hr]
        rwa [show y + 1 + r = y + (r + 1) by omega]

/-! ### The key arbiter -/

theorem getLsbD_freshKeys (base new : BitVec 16) (k : Key) :
    (freshKeys base new).getLsbD k.val = (new.getLsbD k.val && !base.getLsbD k.val) := by
  simp [freshKeys, k.isLt]

/-- The lowest key of a nonempty set is a member of it. -/
theorem lowestKey_mem (f : BitVec 16) (k : Key) (h : f.getLsbD k.val = true) : f.getLsbD (lowestKey f).val = true := by
  unfold lowestKey
  cases e : (List.finRange 16).find? (fun j => f.getLsbD j.val) with
  | none =>
    rw [List.find?_eq_none] at e
    exact absurd h (e k (List.mem_finRange k))
  | some j =>
    have hj := List.find?_some e
    simpa using hj

/-- The arbiter reports a fresh key whenever there is one, and its preferred key when that is fresh. -/
theorem arbitrate_mem (f : BitVec 16) (pick k : Key) (h : f.getLsbD k.val = true) :
    f.getLsbD (arbitrate f pick).val = true := by
  unfold arbitrate
  split
  · next h' => exact h'
  · exact lowestKey_mem f k h

theorem arbitrate_pick (f : BitVec 16) (pick : Key) (h : f.getLsbD pick.val = true) : arbitrate f pick = pick := if_pos h

/-- A set of keys is empty iff no key is in it. -/
theorem keySet_eq_zero_iff (f : BitVec 16) : f = 0 ↔ ∀ k : Key, f.getLsbD k.val = false := by
  constructor
  · intro h k
    simp [h]
  · intro h
    apply BitVec.eq_of_getLsbD_eq
    intro i hi
    simpa using h ⟨i, hi⟩

end Sys2Proof.Machine
end

