-- ==== Sys2Proof/Laws/PerInstr.lean ====
section
/-! SUPPORT. Statements made of every instruction, one lemma per constructor. `EncodeRow`: the word of an instruction lies in the
row of the opcode map (30_encoding.md R76) that carries its mnemonic. -/

namespace Sys2Proof.Laws.EncodeRow

/-- The encoding of `i` matches the row of the opcode map with its mnemonic. -/
def Statement (i : Instr) : Prop :=
  ∃ row ∈ opcodeTable, row.mnemonic = i.mnemonic ∧ encode i &&& row.mask = row.matchWord

theorem clearScreen : Statement .clearScreen :=
  ⟨⟨"clear-screen", 0x00E0, 0xFFFF⟩, by decide, rfl, by decide⟩

theorem ret : Statement .ret :=
  ⟨⟨"return", 0x00EE, 0xFFFF⟩, by decide, rfl, by decide⟩

theorem jump (nnn : Addr12) : Statement (.jump nnn) :=
  ⟨⟨"jump", 0x1000, 0xF000⟩, by decide, rfl, (mask_formatNNN 0x1 nnn)⟩

theorem call (nnn : Addr12) : Statement (.call nnn) :=
  ⟨⟨"call", 0x2000, 0xF000⟩, by decide, rfl, (mask_formatNNN 0x2 nnn)⟩

theorem skipEqConst (x : Reg) (nn : Byte) : Statement (.skipEqConst x nn) :=
  ⟨⟨"skip-eq-const", 0x3000, 0xF000⟩, by decide, rfl, (mask_formatXNN 0x3 x nn)⟩

theorem skipNeConst (x : Reg) (nn : Byte) : Statement (.skipNeConst x nn) :=
  ⟨⟨"skip-ne-const", 0x4000, 0xF000⟩, by decide, rfl, (mask_formatXNN 0x4 x nn)⟩

theorem skipEqReg (x y : Reg) : Statement (.skipEqReg x y) :=
  ⟨⟨"skip-eq-reg", 0x5000, 0xF00F⟩, by decide, rfl, (mask_formatXYN 0x5 x y 0x0)⟩

theorem skipNeReg (x y : Reg) : Statement (.skipNeReg x y) :=
  ⟨⟨"skip-ne-reg", 0x9000, 0xF00F⟩, by decide, rfl, (mask_formatXYN 0x9 x y 0x0)⟩

theorem loadConst (x : Reg) (nn : Byte) : Statement (.loadConst x nn) :=
  ⟨⟨"load-const", 0x6000, 0xF000⟩, by decide, rfl, (mask_formatXNN 0x6 x nn)⟩

theorem addConst (x : Reg) (nn : Byte) : Statement (.addConst x nn) :=
  ⟨⟨"add-const", 0x7000, 0xF000⟩, by decide, rfl, (mask_formatXNN 0x7 x nn)⟩

theorem copy (x y : Reg) : Statement (.copy x y) :=
  ⟨⟨"copy", 0x8000, 0xF00F⟩, by decide, rfl, (mask_formatXYN 0x8 x y 0x0)⟩

theorem bitOr (x y : Reg) : Statement (.bitOr x y) :=
  ⟨⟨"or", 0x8001, 0xF00F⟩, by decide, rfl, (mask_formatXYN 0x8 x y 0x1)⟩

theorem bitAnd (x y : Reg) : Statement (.bitAnd x y) :=
  ⟨⟨"and", 0x8002, 0xF00F⟩, by decide, rfl, (mask_formatXYN 0x8 x y 0x2)⟩

theorem bitXor (x y : Reg) : Statement (.bitXor x y) :=
  ⟨⟨"xor", 0x8003, 0xF00F⟩, by decide, rfl, (mask_formatXYN 0x8 x y 0x3)⟩

theorem addWithCarry (x y : Reg) : Statement (.addWithCarry x y) :=
  ⟨⟨"add-with-carry", 0x8004, 0xF00F⟩, by decide, rfl, (mask_formatXYN 0x8 x y 0x4)⟩

theorem subWithBorrow (x y : Reg) : Statement (.subWithBorrow x y) :=
  ⟨⟨"sub-with-borrow", 0x8005, 0xF00F⟩, by decide, rfl, (mask_formatXYN 0x8 x y 0x5)⟩

theorem shiftRight (x y : Reg) : Statement (.shiftRight x y) :=
  ⟨⟨"shift-right", 0x8006, 0xF00F⟩, by decide, rfl, (mask_formatXYN 0x8 x y 0x6)⟩

theorem subReverseWithBorrow (x y : Reg) : Statement (.subReverseWithBorrow x y) :=
  ⟨⟨"sub-reverse-with-borrow", 0x8007, 0xF00F⟩, by decide, rfl, (mask_formatXYN 0x8 x y 0x7)⟩

theorem shiftLeft (x y : Reg) : Statement (.shiftLeft x y) :=
  ⟨⟨"shift-left", 0x800E, 0xF00F⟩, by decide, rfl, (mask_formatXYN 0x8 x y 0xE)⟩

theorem loadIndex (nnn : Addr12) : Statement (.loadIndex nnn) :=
  ⟨⟨"load-index", 0xA000, 0xF000⟩, by decide, rfl, (mask_formatNNN 0xA nnn)⟩

theorem jumpPlusV0 (nnn : Addr12) : Statement (.jumpPlusV0 nnn) :=
  ⟨⟨"jump-plus-v0", 0xB000, 0xF000⟩, by decide, rfl, (mask_formatNNN 0xB nnn)⟩

theorem randomMasked (x : Reg) (nn : Byte) : Statement (.randomMasked x nn) :=
  ⟨⟨"random-masked", 0xC000, 0xF000⟩, by decide, rfl, (mask_formatXNN 0xC x nn)⟩

theorem draw (x y : Reg) (n : Nat) : Statement (.draw x y n) :=
  ⟨⟨"draw", 0xD000, 0xF000⟩, by decide, rfl, (mask_formatXYN_literal 0xD x y (BitVec.ofNat 4 n))⟩

theorem skipIfKeyDown (x : Reg) : Statement (.skipIfKeyDown x) :=
  ⟨⟨"skip-if-key-down", 0xE09E, 0xF0FF⟩, by decide, rfl, (mask_formatXSS 0xE x 0x9E)⟩

theorem skipIfKeyUp (x : Reg) : Statement (.skipIfKeyUp x) :=
  ⟨⟨"skip-if-key-up", 0xE0A1, 0xF0FF⟩, by decide, rfl, (mask_formatXSS 0xE x 0xA1)⟩

theorem loadFromDelayTimer (x : Reg) : Statement (.loadFromDelayTimer x) :=
  ⟨⟨"load-from-delay-timer", 0xF007, 0xF0FF⟩, by decide, rfl, (mask_formatXSS 0xF x 0x07)⟩

theorem waitForKey (x : Reg) : Statement (.waitForKey x) :=
  ⟨⟨"wait-for-key", 0xF00A, 0xF0FF⟩, by decide, rfl, (mask_formatXSS 0xF x 0x0A)⟩

theorem storeToDelayTimer (x : Reg) : Statement (.storeToDelayTimer x) :=
  ⟨⟨"store-to-delay-timer", 0xF015, 0xF0FF⟩, by decide, rfl, (mask_formatXSS 0xF x 0x15)⟩

theorem storeToSoundTimer (x : Reg) : Statement (.storeToSoundTimer x) :=
  ⟨⟨"store-to-sound-timer", 0xF018, 0xF0FF⟩, by decide, rfl, (mask_formatXSS 0xF x 0x18)⟩

theorem addIndexFromReg (x : Reg) : Statement (.addIndexFromReg x) :=
  ⟨⟨"add-index-from-reg", 0xF01E, 0xF0FF⟩, by decide, rfl, (mask_formatXSS 0xF x 0x1E)⟩

theorem loadIndexFont (x : Reg) : Statement (.loadIndexFont x) :=
  ⟨⟨"load-index-font", 0xF029, 0xF0FF⟩, by decide, rfl, (mask_formatXSS 0xF x 0x29)⟩

theorem storeBcd (x : Reg) : Statement (.storeBcd x) :=
  ⟨⟨"store-bcd", 0xF033, 0xF0FF⟩, by decide, rfl, (mask_formatXSS 0xF x 0x33)⟩

theorem storeRegisters (x : Reg) : Statement (.storeRegisters x) :=
  ⟨⟨"store-registers", 0xF055, 0xF0FF⟩, by decide, rfl, (mask_formatXSS 0xF x 0x55)⟩

theorem loadRegisters (x : Reg) : Statement (.loadRegisters x) :=
  ⟨⟨"load-registers", 0xF065, 0xF0FF⟩, by decide, rfl, (mask_formatXSS 0xF x 0x65)⟩

end Sys2Proof.Laws.EncodeRow
end

