-- ==== Sys2Proof/Laws/Step.lean ====
section
/-! SUPPORT. What a step can do, said once. -/

namespace Sys2Proof.Machine

/-- Every way a step answers a next state: a tick; a slot that faults at the fetch bound; a slot that faults at decode; a slot
that executes an instruction; a wait slot. -/
theorem step_next_cases (s t : State) (h : step s = .next t) :
    ((s.run = .running ∨ ∃ x, s.run = .awaitKey x) ∧ s.input.agent = .tick ∧ t = s.takeInput.tick) ∨
    (s.run = .running ∧ s.input.agent = .slot ∧ 4094 < s.pc.toNat ∧
      t = (s.takeInput.present s.input).raise .addressOutOfRange) ∨
    (∃ e, s.run = .running ∧ s.input.agent = .slot ∧ s.pc.toNat ≤ 4094 ∧ decode s.fetchWord = .error e ∧
      t = (s.takeInput.present s.input).advance.raise .invalidOpcode) ∨
    (∃ i, Executes s i ∧ exec i (s.takeInput.present s.input).advance = .next t) ∨
    (∃ x, s.run = .awaitKey x ∧ s.input.agent = .slot ∧ t = waitSlot x s.input s.takeInput) := by
  unfold step at h
  split at h
  · next hr =>
    unfold stepRunning at h
    split at h
    · next ha =>
      unfold instructionSlot at h
      split at h
      · next hp =>
        cases h
        exact .inr (.inl ⟨hr, ha, by simpa [maxFetch] using hp, rfl⟩)
      · next hp =>
        have hp' : s.pc.toNat ≤ 4094 := by simpa [maxFetch] using hp
        have hf : s.takeInput.fetchWord = s.fetchWord := by simp [State.fetchWord]
        unfold dispatch at h
        rw [hf] at h
        split at h
        · next i hd => exact .inr (.inr (.inr (.inl ⟨i, ⟨hr, ha, hp', hd⟩, h⟩)))
        · next e hd =>
          cases h
          exact .inr (.inr (.inl ⟨e, hr, ha, hp', hd, rfl⟩))
    · next ha =>
      cases h
      exact .inl ⟨.inl hr, ha, rfl⟩
  · next x hr =>
    unfold stepAwait at h
    split at h
    · next ha =>
      cases h
      exact .inr (.inr (.inr (.inr ⟨x, hr, ha, rfl⟩)))
    · next ha =>
      cases h
      exact .inl ⟨.inr ⟨x, hr⟩, ha, rfl⟩
  · cases h

/-- A slot that executes an instruction is the execution of that instruction from the advanced state. -/
theorem step_of_executes (s : State) (i : Instr) (h : Executes s i) :
    step s = exec i (s.takeInput.present s.input).advance := by
  obtain ⟨hr, ha, hp, hd⟩ := h
  have hf : s.takeInput.fetchWord = s.fetchWord := by simp [State.fetchWord]
  have hp' : ¬ s.takeInput.pc.toNat > maxFetch := by simpa [maxFetch] using hp
  simp only [step, hr, stepRunning, ha, instructionSlot, if_neg hp', dispatch, hf, hd]

/-- The wait slot, both ways. -/
theorem waitSlot_cases (x : Reg) (i : Input) (s : State) :
    (freshKeys s.waitBase i.keyLevel = 0 ∧ waitSlot x i s = { s with keys := i.keyLevel, waitBase := i.keyLevel }) ∨
    (freshKeys s.waitBase i.keyLevel ≠ 0 ∧
      waitSlot x i s =
        { (s.setReg x (BitVec.ofNat 8 (arbitrate (freshKeys s.waitBase i.keyLevel) i.pick).val)) with
          keys := i.keyLevel, run := .running }) := by
  unfold waitSlot
  by_cases h : freshKeys s.waitBase i.keyLevel = 0
  · exact .inl ⟨h, if_pos h⟩
  · exact .inr ⟨h, if_neg h⟩

end Sys2Proof.Machine
end

