-- ==== Sys2Proof/Tests/Slice0.lean ====
section
/-! SUPPORT. The model's own tests. Expected values are the spec's: the vectors of 95_test_vectors.md (named S, T, A, I, D, K, W, M,
X there) and the encodings of 30_encoding.md R76, never the model's own answers. After them, one witness for the hypotheses of
each statement of Certificates/Slice0/Obligations.lean. -/

namespace Sys2Proof.Tests

open Sys2Proof.Machine

/-! ### Well-formedness -/

/-- A row count of 16 does not fit the field N. -/
theorem test_draw_with_sixteen_rows_is_refused : (Instr.draw 0 0 16).wellFormed = false := by decide

theorem test_draw_with_fifteen_rows_is_well_formed : (Instr.draw 0 0 15).wellFormed = true := by decide

/-- The decoder never gives the refused term: the word of 15 rows is the last of its kind. -/
theorem test_decode_gives_at_most_fifteen_rows : decode 0xD00F = .ok (.draw 0 0 15) := by decide

/-! ### Decoding: words written out from the patterns of 30_encoding.md R76 -/

theorem test_decode_control :
    decode 0b0000000011100000 = .ok .clearScreen ∧ decode 0b0000000011101110 = .ok .ret ∧
    decode 0b0001001000110100 = .ok (.jump 0x234) ∧ decode 0b0010001000001010 = .ok (.call 0x20A) ∧
    decode 0b1011001100000000 = .ok (.jumpPlusV0 0x300) := by decide

theorem test_decode_skips :
    decode 0b0011101001000010 = .ok (.skipEqConst 10 0x42) ∧ decode 0b0100111100000001 = .ok (.skipNeConst 15 0x01) ∧
    decode 0b0101000100100000 = .ok (.skipEqReg 1 2) ∧ decode 0b1001000100100000 = .ok (.skipNeReg 1 2) ∧
    decode 0b1110000110011110 = .ok (.skipIfKeyDown 1) ∧ decode 0b1110000110100001 = .ok (.skipIfKeyUp 1) := by decide

theorem test_decode_constants :
    decode 0b0110000000010010 = .ok (.loadConst 0 0x12) ∧ decode 0b0111000111111111 = .ok (.addConst 1 0xFF) ∧
    decode 0b1100001100001111 = .ok (.randomMasked 3 0x0F) := by decide

theorem test_decode_logic :
    decode 0b1000000100100000 = .ok (.copy 1 2) ∧ decode 0b1000000100100001 = .ok (.bitOr 1 2) ∧
    decode 0b1000000100100010 = .ok (.bitAnd 1 2) ∧ decode 0b1000000100100011 = .ok (.bitXor 1 2) := by decide

theorem test_decode_arithmetic :
    decode 0b1000000000010100 = .ok (.addWithCarry 0 1) ∧ decode 0b1000000100100101 = .ok (.subWithBorrow 1 2) ∧
    decode 0b1000000100100110 = .ok (.shiftRight 1 2) ∧ decode 0b1000000100100111 = .ok (.subReverseWithBorrow 1 2) ∧
    decode 0b1000000100101110 = .ok (.shiftLeft 1 2) := by decide

theorem test_decode_index :
    decode 0b1010001100000000 = .ok (.loadIndex 0x300) ∧ decode 0b1111000100011110 = .ok (.addIndexFromReg 1) ∧
    decode 0b1111000000101001 = .ok (.loadIndexFont 0) ∧ decode 0b1111000000110011 = .ok (.storeBcd 0) ∧
    decode 0b1111000101010101 = .ok (.storeRegisters 1) ∧ decode 0b1111001001100101 = .ok (.loadRegisters 2) ∧
    decode 0b1101000100101010 = .ok (.draw 1 2 10) := by decide

theorem test_decode_timers :
    decode 0b1111000100000111 = .ok (.loadFromDelayTimer 1) ∧ decode 0b1111001100001010 = .ok (.waitForKey 3) ∧
    decode 0b1111000000010101 = .ok (.storeToDelayTimer 0) ∧ decode 0b1111000000011000 = .ok (.storeToSoundTimer 0) := by decide

/-- Words of the vectors T20, T22, A5, A25, D12, K5 and M9: rejected. -/
theorem test_decode_rejects :
    [0x5121, 0x9F0F, 0x8F09, 0x8128, 0x812A, 0x812D, 0x812F, 0x00E1, 0x00EF, 0x0000, 0x01E0, 0xE19F, 0xF000, 0xF0FF,
      0xF075, 0xF085].all (fun w : Word => decide (decode w = .error .invalidOpcode)) = true := by decide

theorem test_decode_bytes_keeps_the_rest : decodeBytes [0x12, 0x34, 0x56] = .ok (.jump 0x234, [0x56]) := by decide

theorem test_decode_one_byte_is_truncated : decodeBytes [0x12] = .error .truncated := by decide

theorem test_table_word : decodeTableWord 16 0xD12A = some (.draw 1 2 10) ∧ decodeTableWord 16 0x5121 = none := by decide

/-! ### One step on a small state -/

/-- A slot in which the environment presents these keys and this random byte. -/
def slotWith (keys : BitVec 16) (rand : Byte) : Input := ⟨.slot, keys, rand, 0⟩

/-- A slot with no key down. -/
def quiet : Input := slotWith 0 0

/-- A tick. -/
def tickInput : Input := ⟨.tick, 0, 0, 0⟩

/-- The reset state with these registers. -/
def withRegs (l : List (Reg × Byte)) : State := l.foldl (fun s e => s.setReg e.1 e.2) State.reset

/-- The word placed at `pc`, and the one input of the next step. -/
def place (w : Word) (i : Input) (s : State) : State :=
  { s with mem := Memory.writeBytes s.mem s.pc.toNat [highByte w, lowByte w], agenda := [i] }

/-- The step answers a next state with this property. -/
def nextHolds (r : Result) (p : State → Bool) : Bool :=
  match r with
  | .next t => p t
  | _ => false

/-- One step from `s` with the word `w` at `pc` and no key down, judged by `p`. -/
def stepHolds (w : Word) (s : State) (p : State → Bool) : Bool := nextHolds (step (place w quiet s)) p

/-- The framebuffer with these cells lit. -/
def lit (l : List (Fin 64 × Fin 32)) : Framebuffer :=
  l.foldl (fun f e => Framebuffer.setCell f e.1 e.2 true) Framebuffer.clear

/-! #### Control transfer -/

/-- T1. -/
theorem test_return :
    stepHolds 0x00EE ({ State.reset with pc := 0x20C, sp := 1, stack := State.reset.stack.set 0 0x206 })
      (fun t => t.pc = 0x206 && t.sp = 0 && t.stack[0] = 0x206) = true := by decide

/-- T2. -/
theorem test_return_underflow :
    stepHolds 0x00EE State.reset (fun t => t.run = .faulted .stackUnderflow && t.pc = 0x202 && t.sp = 0) = true := by decide

/-- T3 and T5. -/
theorem test_jump :
    stepHolds 0x1FFE State.reset (fun t => t.pc = 0xFFE) = true ∧
    stepHolds 0x1201 State.reset (fun t => t.pc = 0x201) = true := by decide

/-- T4. -/
theorem test_jump_out_of_range :
    stepHolds 0x1FFF State.reset (fun t => t.run = .faulted .addressOutOfRange && t.pc = 0x202) = true := by decide

/-- T8 and T9. -/
theorem test_call :
    stepHolds 0x2300 ({ State.reset with sp := 15 }) (fun t => t.pc = 0x300 && t.sp = 16 && t.stack[15] = 0x202) = true ∧
    stepHolds 0x2300 ({ State.reset with pc := 0xFFE })
      (fun t => t.pc = 0x300 && t.sp = 1 && t.stack[0] = 0x1000) = true := by decide

/-- T6 and T7. -/
theorem test_call_faults :
    stepHolds 0x2FFF ({ State.reset with sp := 16 }) (fun t => t.run = .faulted .stackOverflow && t.sp = 16) = true ∧
    stepHolds 0x2FFF State.reset
      (fun t => t.run = .faulted .addressOutOfRange && t.sp = 0 && t.stack[0] = 0) = true := by decide

/-- T10 and the example of R104. -/
theorem test_jump_plus_v0 :
    stepHolds 0xBFF0 (withRegs [(0, 0x0E)]) (fun t => t.pc = 0xFFE) = true ∧
    stepHolds 0xB300 (withRegs [(0, 0x10)]) (fun t => t.pc = 0x310) = true := by decide

/-- T11 and T12. -/
theorem test_jump_plus_v0_out_of_range :
    stepHolds 0xBFF0 (withRegs [(0, 0x0F)]) (fun t => t.run = .faulted .addressOutOfRange) = true ∧
    stepHolds 0xBFFF (withRegs [(0, 0xFF)]) (fun t => t.run = .faulted .addressOutOfRange) = true := by decide

/-- T13 and T14. -/
theorem test_skip_eq_const :
    stepHolds 0x3A42 (withRegs [(10, 0x42)]) (fun t => t.pc = 0x204) = true ∧
    stepHolds 0x3A42 (withRegs [(10, 0x41)]) (fun t => t.pc = 0x202) = true := by decide

/-- T15 and T16. -/
theorem test_skip_at_the_end_of_memory :
    stepHolds 0x3000 ({ State.reset with pc := 0xFFA }) (fun t => t.pc = 0xFFE && t.run = .running) = true ∧
    stepHolds 0x3000 ({ State.reset with pc := 0xFFC })
      (fun t => t.pc = 0xFFE && t.run = .faulted .addressOutOfRange) = true := by decide

/-- T17 and the example of R106. -/
theorem test_skip_ne_const :
    stepHolds 0x4000 ({ State.reset with pc := 0xFFC }) (fun t => t.pc = 0xFFE && t.run = .running) = true ∧
    stepHolds 0x4F01 ({ State.reset with pc := 0x300 }) (fun t => t.pc = 0x304) = true := by decide

/-- T19 and the example of R107. -/
theorem test_skip_eq_reg :
    stepHolds 0x5110 (withRegs [(1, 9)]) (fun t => t.pc = 0x204) = true ∧
    stepHolds 0x5120 (withRegs [(1, 7), (2, 7)]) (fun t => t.pc = 0x204) = true := by decide

/-- T21 and the example of R108. -/
theorem test_skip_ne_reg :
    stepHolds 0x9110 (withRegs [(1, 9)]) (fun t => t.pc = 0x202) = true ∧
    stepHolds 0x9120 (withRegs [(1, 7), (2, 8)]) (fun t => t.pc = 0x204) = true := by decide

/-! #### Constants and arithmetic -/

/-- S11 and A1. -/
theorem test_load_const :
    stepHolds 0x6012 State.reset (fun t => t.reg 0 = 0x12 && t.pc = 0x202) = true ∧
    stepHolds 0x6FAB State.reset (fun t => t.reg 15 = 0xAB) = true := by decide

/-- A2 and A3. -/
theorem test_add_const :
    stepHolds 0x7FFF (withRegs [(15, 1)]) (fun t => t.reg 15 = 0) = true ∧
    stepHolds 0x7001 (withRegs [(0, 0xFF)]) (fun t => t.reg 0 = 0 && t.reg 15 = 0) = true := by decide

/-- A19 and A4. -/
theorem test_copy :
    stepHolds 0x8120 (withRegs [(2, 0x5A)]) (fun t => t.reg 1 = 0x5A && t.reg 2 = 0x5A) = true ∧
    stepHolds 0x8F10 (withRegs [(1, 5)])
      (fun t => t.run = .faulted .invalidRegisterOperand && t.reg 15 = 0 && t.pc = 0x202) = true := by decide

/-- A16. -/
theorem test_or :
    stepHolds 0x8121 (withRegs [(1, 0xF0), (2, 0x0F), (15, 1)]) (fun t => t.reg 1 = 0xFF && t.reg 15 = 1) = true := by decide

/-- A18. -/
theorem test_and : stepHolds 0x8122 (withRegs [(1, 0xF0), (2, 0x3C)]) (fun t => t.reg 1 = 0x30) = true := by decide

/-- The example of R126 and A17. -/
theorem test_xor :
    stepHolds 0x8123 (withRegs [(1, 0xF0), (2, 0x3C)]) (fun t => t.reg 1 = 0xCC) = true ∧
    stepHolds 0x8113 (withRegs [(1, 0xAA)]) (fun t => t.reg 1 = 0) = true := by decide

/-- S12, A12 and A6. -/
theorem test_add_with_carry :
    stepHolds 0x8014 (withRegs [(0, 0xFF), (1, 1)]) (fun t => t.reg 0 = 0 && t.reg 1 = 1 && t.reg 15 = 1) = true ∧
    stepHolds 0x8114 (withRegs [(1, 0x80)]) (fun t => t.reg 1 = 0 && t.reg 15 = 1) = true ∧
    stepHolds 0x80F4 (withRegs [(0, 0xFF), (15, 1)]) (fun t => t.reg 0 = 0 && t.reg 15 = 1) = true := by decide

/-- The example of R128, A7 and A13. -/
theorem test_sub_with_borrow :
    stepHolds 0x8125 (withRegs [(1, 0x10), (2, 0x20)]) (fun t => t.reg 1 = 0xF0 && t.reg 15 = 0) = true ∧
    stepHolds 0x80F5 (withRegs [(0, 5), (15, 1)]) (fun t => t.reg 0 = 4 && t.reg 15 = 1) = true ∧
    stepHolds 0x8115 (withRegs [(1, 0x33)]) (fun t => t.reg 1 = 0 && t.reg 15 = 1) = true := by decide

/-- S4, A15 and A9. -/
theorem test_shift_right :
    stepHolds 0x8126 (withRegs [(2, 5)]) (fun t => t.reg 1 = 2 && t.reg 15 = 1 && t.reg 2 = 5) = true ∧
    stepHolds 0x8126 (withRegs [(1, 0xFF), (2, 4)]) (fun t => t.reg 1 = 2 && t.reg 15 = 0) = true ∧
    stepHolds 0x80F6 (withRegs [(0, 0x99), (15, 3)]) (fun t => t.reg 0 = 1 && t.reg 15 = 1) = true := by decide

/-- A20 and A11. -/
theorem test_sub_reverse_with_borrow :
    stepHolds 0x8127 (withRegs [(1, 0x10), (2, 0x20)]) (fun t => t.reg 1 = 0x10 && t.reg 15 = 1) = true ∧
    stepHolds 0x80F7 (withRegs [(0, 1)]) (fun t => t.reg 0 = 0xFF && t.reg 15 = 0) = true := by decide

/-- A21 and A10. -/
theorem test_shift_left :
    stepHolds 0x812E (withRegs [(2, 0x81)]) (fun t => t.reg 1 = 2 && t.reg 15 = 1 && t.reg 2 = 0x81) = true ∧
    stepHolds 0x80FE (withRegs [(15, 0x81)]) (fun t => t.reg 0 = 2 && t.reg 15 = 1) = true := by decide

/-- A22 and A23. -/
theorem test_random_masked :
    nextHolds (step (place 0xC30F (slotWith 0 0xA7) State.reset)) (fun t => t.reg 3 = 0x07) = true ∧
    nextHolds (step (place 0xCFF0 (slotWith 0 0xFF) State.reset)) (fun t => t.reg 15 = 0xF0) = true := by decide

/-- A24: whatever the free byte of the step is. -/
theorem test_random_masked_with_zero (r : Byte) (s : State) :
    nextHolds (exec (.randomMasked 5 0) ({ s with rand := r })) (fun t => t.reg 5 = 0) = true := by
  simp [exec, execRandomMasked, nextHolds, State.reg, State.setReg]

/-! #### Index and memory -/

/-- I1. -/
theorem test_load_index : stepHolds 0xAFFF State.reset (fun t => t.index = 0xFFF && t.run = .running) = true := by decide

/-- I2 and I3. -/
theorem test_add_index_from_reg :
    stepHolds 0xF11E ({ withRegs [(1, 0x20)] with index := 0xFF0 })
      (fun t => t.index = 0x1010 && t.reg 15 = 0 && t.run = .running) = true ∧
    stepHolds 0xF11E ({ withRegs [(1, 2)] with index := 0xFFFF }) (fun t => t.index = 1) = true := by decide

/-- I4 and I5. -/
theorem test_load_index_font :
    stepHolds 0xF029 (withRegs [(0, 0x10)]) (fun t => t.run = .faulted .invalidRegisterOperand && t.index = 0) = true ∧
    stepHolds 0xF029 (withRegs [(0, 0x0F)]) (fun t => t.index = 0x4B) = true := by decide

/-- I6 and S7. -/
theorem test_store_bcd :
    stepHolds 0xF033 ({ withRegs [(0, 128)] with index := 0xFFD })
      (fun t => t.readByte 0xFFD = 1 && t.readByte 0xFFE = 2 && t.readByte 0xFFF = 8 && t.index = 0xFFD) = true ∧
    stepHolds 0xF033 ({ withRegs [(0, 255)] with index := 0x300 })
      (fun t => t.readByte 0x300 = 2 && t.readByte 0x301 = 5 && t.readByte 0x302 = 5) = true := by decide

/-- I7. -/
theorem test_store_bcd_out_of_range :
    stepHolds 0xF033 ({ withRegs [(0, 128)] with index := 0xFFE })
      (fun t => t.run = .faulted .addressOutOfRange && t.readByte 0xFFE = 0 && t.readByte 0xFFF = 0) = true := by decide

/-- I8 and the example of R147. -/
theorem test_store_registers :
    stepHolds 0xF055 ({ withRegs [(0, 0xAB)] with index := 0xFFF }) (fun t => t.readByte 0xFFF = 0xAB) = true ∧
    stepHolds 0xF155 ({ withRegs [(0, 0x62), (1, 0x77), (2, 0x99)] with index := 0x208 })
      (fun t => t.readByte 0x208 = 0x62 && t.readByte 0x209 = 0x77 && t.readByte 0x20A = 0 && t.index = 0x208) = true := by
  decide

/-- I9 and I11. -/
theorem test_store_registers_out_of_range :
    stepHolds 0xF155 ({ withRegs [(0, 0xAB), (1, 0xCD)] with index := 0xFFF })
      (fun t => t.run = .faulted .addressOutOfRange && t.readByte 0xFFF = 0) = true ∧
    stepHolds 0xFF55 ({ State.reset with index := 0xFF1 }) (fun t => t.run = .faulted .addressOutOfRange) = true := by decide

/-- I12: the first sixteen bytes of the font. -/
theorem test_load_registers :
    stepHolds 0xFF65 State.reset
      (fun t => t.regs.toList = [0xF0, 0x90, 0x90, 0x90, 0xF0, 0x20, 0x60, 0x20, 0x20, 0x70, 0xF0, 0x10, 0xF0, 0x80, 0xF0,
        0xF0]) = true := by decide

/-- I13 and I14. -/
theorem test_load_registers_range :
    stepHolds 0xF065 ({ State.reset with index := 0x1000 }) (fun t => t.run = .faulted .addressOutOfRange) = true ∧
    stepHolds 0xF265 ({ withRegs [(3, 0x77)] with index := 0x300, mem := [(0x300, 2), (0x301, 5), (0x302, 4), (0x303, 9)] })
      (fun t => t.reg 0 = 2 && t.reg 1 = 5 && t.reg 2 = 4 && t.reg 3 = 0x77 && t.index = 0x300) = true := by decide

/-! #### Display -/

/-- D11. -/
theorem test_clear_screen :
    stepHolds 0x00E0 ({ withRegs [(15, 1)] with fb := lit [(1, 1)] })
      (fun t => t.fb = lit [] && t.reg 15 = 1 && t.pc = 0x202) = true := by decide

/-- D1, D2 and D4: the wrap at both edges, and coordinates read before the flag is written. -/
theorem test_draw_wraps :
    stepHolds 0xD011 ({ withRegs [(0, 63), (1, 31)] with index := 0x300, mem := [(0x300, 0xC0)] })
      (fun t => t.fb = lit [(63, 31), (0, 31)] && t.reg 15 = 0) = true ∧
    stepHolds 0xD012 ({ withRegs [(0, 63), (1, 31)] with index := 0x300, mem := [(0x300, 0x80), (0x301, 0x80)] })
      (fun t => t.fb = lit [(63, 31), (63, 0)] && t.reg 15 = 0) = true ∧
    stepHolds 0xDFF1 ({ withRegs [(15, 70)] with index := 0x300, mem := [(0x300, 0x80)] })
      (fun t => t.fb = lit [(6, 6)] && t.reg 15 = 0) = true := by decide

/-- D5, D6, D7 and D8. -/
theorem test_draw_collides_or_faults :
    stepHolds 0xD011 ({ State.reset with index := 0x300, mem := [(0x300, 0xF0)], fb := lit [(3, 0), (9, 9)] })
      (fun t => t.fb = lit [(0, 0), (1, 0), (2, 0), (9, 9)] && t.reg 15 = 1) = true ∧
    stepHolds 0xD010 ({ withRegs [(15, 1)] with index := 0x1000 }) (fun t => t.reg 15 = 0 && t.run = .running) = true ∧
    stepHolds 0xD010 ({ withRegs [(15, 1)] with index := 0x1001 })
      (fun t => t.reg 15 = 1 && t.run = .faulted .addressOutOfRange) = true ∧
    stepHolds 0xD011 ({ withRegs [(15, 7)] with index := 0x1000 })
      (fun t => t.reg 15 = 7 && t.run = .faulted .addressOutOfRange && t.fb = lit []) = true := by decide

/-! #### Keys and timers -/

/-- K1, K2. -/
theorem test_skip_if_key_down :
    nextHolds (step (place 0xE19E (slotWith 0x0020 0) (withRegs [(1, 5)]))) (fun t => t.pc = 0x204) = true ∧
    stepHolds 0xE19E (withRegs [(1, 5)]) (fun t => t.pc = 0x202) = true := by decide

/-- K3, K4, K6 and K7. -/
theorem test_skip_if_key_up :
    stepHolds 0xE1A1 (withRegs [(1, 5)]) (fun t => t.pc = 0x204) = true ∧
    stepHolds 0xE1A1 (withRegs [(1, 16)]) (fun t => t.run = .faulted .invalidRegisterOperand) = true ∧
    stepHolds 0xE0A1 ({ State.reset with pc := 0xFFC })
      (fun t => t.run = .faulted .addressOutOfRange && t.pc = 0xFFE) = true ∧
    stepHolds 0xE0A1 ({ withRegs [(0, 16)] with pc := 0xFFC }) (fun t => t.run = .faulted .invalidRegisterOperand) = true := by
  decide

/-- W1. -/
theorem test_wait_for_key :
    nextHolds (step (place 0xF30A (slotWith 0x0080 0) State.reset))
      (fun t => t.run = .awaitKey 3 && t.pc = 0x202 && t.reg 3 = 0 && t.waitBase = 0x0080) = true := by decide

/-- A machine that awaits a key for register 3, key 7 down, with this input next. -/
def waiting (i : Input) : State :=
  { State.reset with run := .awaitKey 3, pc := 0x202, keys := 0x0080, waitBase := 0x0080, agenda := [i] }

/-- W2, W3, and W6 with either preference of the arbiter. -/
theorem test_wait_slot :
    nextHolds (step (waiting (slotWith 0x0080 0))) (fun t => t.run = .awaitKey 3) = true ∧
    nextHolds (step (waiting (slotWith 0x00A0 0))) (fun t => t.reg 3 = 5 && t.run = .running && t.pc = 0x202) = true ∧
    nextHolds (step (waiting ⟨.slot, 0x0204, 0, 2⟩)) (fun t => t.reg 3 = 2) = true ∧
    nextHolds (step (waiting ⟨.slot, 0x0204, 0, 9⟩)) (fun t => t.reg 3 = 9) = true := by decide

/-- M1. -/
theorem test_load_from_delay_timer :
    stepHolds 0xF107 ({ State.reset with dt := 0x2A }) (fun t => t.reg 1 = 0x2A && t.dt = 0x2A) = true := by decide

/-- M2. -/
theorem test_store_to_delay_timer : stepHolds 0xF015 (withRegs [(0, 3)]) (fun t => t.dt = 3 && t.st = 0) = true := by decide

/-- M3's first step, and M4's. -/
theorem test_store_to_sound_timer :
    stepHolds 0xF018 (withRegs [(0, 1)]) (fun t => t.st = 1 && t.tone) = true ∧
    stepHolds 0xF018 ({ State.reset with st := 5, tone := true }) (fun t => t.st = 0 && t.tone) = true := by decide

/-- M3's ticks, M4's tick, and M6: one tick each. -/
theorem test_tick :
    nextHolds (step ({ State.reset with st := 1, tone := true, agenda := [tickInput] })) (fun t => t.st = 0 && !t.tone) = true ∧
    nextHolds (step ({ State.reset with tone := true, agenda := [tickInput] })) (fun t => t.st = 0 && t.tone) = true ∧
    nextHolds (step ({ State.reset with dt := 0xFF, agenda := [tickInput] })) (fun t => t.dt = 0xFE) = true ∧
    nextHolds (step ({ waiting tickInput with dt := 5 })) (fun t => t.dt = 4 && t.run = .awaitKey 3) = true := by decide

/-! #### Fetch, faults and the host's interface -/

/-- X1, X2, X7. -/
theorem test_fetch :
    stepHolds 0 ({ State.reset with pc := 0xFFF }) (fun t => t.run = .faulted .addressOutOfRange && t.pc = 0xFFF) = true ∧
    stepHolds 0x6007 ({ State.reset with pc := 0xFFE }) (fun t => t.reg 0 = 7 && t.pc = 0x1000 && t.run = .running) = true ∧
    stepHolds 0x6105 ({ State.reset with pc := 0x201 }) (fun t => t.reg 1 = 5 && t.pc = 0x203) = true := by decide

/-- X4: the first slot of the empty ROM. -/
theorem test_empty_rom :
    nextHolds (step ({ State.reset with agenda := [quiet] }))
      (fun t => t.run = .faulted .invalidOpcode && t.pc = 0x202) = true := by decide

/-- M8 and X6. -/
theorem test_faulted_is_terminal :
    step ({ State.reset with run := .faulted .stackOverflow, agenda := [tickInput] }) = .fault (.halted .stackOverflow) :=
  rfl

/-- The host's placement runs the word next, whatever the free input of that step is. -/
theorem test_with_fetch_word :
    nextHolds (step (State.reset.withFetchWord 16 0x6012)) (fun t => t.reg 0 = 0x12 && t.pc = 0x202) = true := by decide

/-- The load of 12 34 with the default font. -/
theorem test_load :
    (State.load (Vector.ofFn (fun k => fontTable.getD k.val 0)) .fault [0x12, 0x34]).map
      (fun s => [s.readByte 0x200, s.readByte 0x201, s.readByte 0, s.readByte 0x4F, s.readByte 0x50]) =
      some [0x12, 0x34, 0xF0, 0x80, 0] := by decide

/-! ### Witnesses: each statement's hypotheses are met together -/

theorem witness_DecodeInvertsEncode : (Instr.draw 15 0 15).wellFormed = true ∧ (Instr.jump 0xFFF).wellFormed = true := by decide

theorem witness_DecodedWordIsItsEncoding : decode 0xFF65 = .ok (.loadRegisters 15) ∧ decode 0x00EE = .ok .ret := by decide

theorem witness_DecoderAgreesWithOpcodeMap :
    (⟨"clear-screen", 0x00E0, 0xFFFF⟩ : OpcodeRow) ∈ opcodeTable ∧
    (⟨"load-registers", 0xF065, 0xF0FF⟩ : OpcodeRow) ∈ opcodeTable := by decide

theorem witness_ByteStreamDecodesInOrder : (Instr.draw 0 15 0).wellFormed = true := by decide

/-- At the entry point and at the highest fetch address. -/
theorem witness_StepRunsTheDecodedInstruction :
    [0x200, 0xFFE].all (fun pc : Word =>
      let s := place 0x6012 quiet ({ State.reset with pc := pc })
      decide (s.run = .running ∧ s.input.agent = .slot ∧ s.pc.toNat ≤ 4094 ∧
        decodeBytes [s.readByte s.pc.toNat, s.readByte (s.pc.toNat + 1)] = .ok (.loadConst 0 0x12, []))) = true := by decide

theorem witness_FetchAboveBoundFaults :
    [0xFFF, 0x1000, 0xFFFF].all (fun pc : Word =>
      let s := place 0 quiet ({ State.reset with pc := pc })
      decide (s.run = .running ∧ s.input.agent = .slot ∧ 4094 < s.pc.toNat)) = true := by decide

theorem witness_UnmappedWordFaults :
    [0x200, 0xFFE].all (fun pc : Word =>
      let s := place 0x8F09 quiet ({ State.reset with pc := pc })
      decide (s.run = .running ∧ s.input.agent = .slot ∧ s.pc.toNat ≤ 4094 ∧ decode s.fetchWord = .error .invalidOpcode)) =
      true := by decide

/-- The first and the last kind, and the two run states that hold no fault. -/
theorem witness_FaultedMachineTakesNoStep :
    (State.reset.raise .invalidOpcode).run = .faulted .invalidOpcode ∧
    (State.reset.raise .invalidRegisterOperand).run = .faulted .invalidRegisterOperand ∧
    State.reset.run = .running ∧ (State.reset.suspend 15).run = .awaitKey 15 := by decide

theorem witness_TickCountsDown :
    (place 0 tickInput State.reset).run = .running ∧ (place 0 tickInput State.reset).input.agent = .tick ∧
    (waiting tickInput).run = .awaitKey 3 ∧ (waiting tickInput).input.agent = .tick := by decide

/-- Key 7 held, and all keys released. -/
theorem witness_WaitSlotWithoutFreshPress :
    [0x0080, 0].all (fun keys : BitVec 16 =>
      let s := waiting (slotWith keys 0)
      decide (s.run = .awaitKey 3 ∧ s.input.agent = .slot ∧
        ∀ k : Key, s.input.keyLevel.getLsbD k.val = true → s.waitBase.getLsbD k.val = true)) = true := by decide

/-- Key 0 pressed with the arbiter preferring another key, and key 15 pressed and preferred. -/
theorem witness_FreshPressCompletesTheWait :
    [(⟨.slot, 0x0001, 0, 7⟩ : Input), ⟨.slot, 0x8000, 0, 15⟩].all (fun i =>
      let s := waiting i
      decide (s.run = .awaitKey 3 ∧ s.input.agent = .slot ∧
        ∃ k : Key, s.input.keyLevel.getLsbD k.val = true ∧ s.waitBase.getLsbD k.val = false)) = true := by decide

/-- Key 7 held alone, and held while key 5 is pressed. -/
theorem witness_HeldKeyIsNotReported :
    [0x0080, 0x00A0].all (fun keys : BitVec 16 =>
      let s := waiting (slotWith keys 0)
      decide (s.run = .awaitKey 3 ∧ s.input.agent = .slot ∧ s.waitBase.getLsbD 7 = true ∧ s.input.keyLevel.getLsbD 7 = true)) =
      true := by decide

theorem witness_LoadBuildsTheResetImage :
    ([] : List Byte).length ≤ 3584 ∧ (List.replicate 3584 (0 : Byte)).length ≤ 3584 := by
  rw [List.length_replicate]
  decide

/-- A load that answers a state, and a ROM one byte too long. -/
theorem witness_LoadIsResetBesidesMemory :
    (State.load (Vector.replicate 80 0) .permit [0x12]).isSome = true ∧ 3584 < (List.replicate 3585 (0 : Byte)).length := by
  rw [List.length_replicate]
  decide

/-- The default font, byte by byte as R56 prints it. -/
theorem witness_LoadWithTheDefaultFont :
    ∀ (d : Fin 16) (r : Fin 5),
      ((Vector.ofFn (n := 80) (fun k => fontTable.getD k.val 0)).toList.getD (5 * d.val + r.val) 0).toNat = glyphByte d r := by
  decide

/-- The bytes next to the font and at the end of memory. -/
theorem witness_ResetLeavesTheSpecifiedState : 80 ≤ 80 ∧ 80 < 4096 ∧ 80 ≤ 4095 ∧ 4095 < 4096 := by decide

theorem witness_InvariantHoldsAfterLoad : (State.load (Vector.replicate 80 1) .fault []).isSome = true := by decide

/-- A state that meets the invariant with a listed byte, `pc` at its bound, a running sound timer and an awaited key. -/
theorem witness_StepKeepsTheInvariant :
    State.Inv ({ waiting quiet with pc := 0x1000, st := 2, tone := true, mem := [(0x300, 1)] }) ∧
    nextHolds (step ({ waiting quiet with pc := 0x1000, st := 2, tone := true, mem := [(0x300, 1)] })) (fun _ => true) = true :=
  ⟨⟨by decide, by decide, by decide, by decide, by intro x _; rfl⟩, by decide⟩

/-- A full stack, one live entry, and none. -/
theorem witness_ReturnPopsTheStack :
    ({ State.reset with sp := 16 } : State).sp.val = (15 : Fin 16).val + 1 ∧
    ({ State.reset with sp := 1 } : State).sp.val = (0 : Fin 16).val + 1 ∧ State.reset.sp.val = 0 := by decide

theorem witness_JumpGoesToItsTarget : (0xFFE : Addr12).toNat ≤ 4094 ∧ 4094 < (0xFFF : Addr12).toNat := by decide

theorem witness_CallPushesTheReturnAddress :
    State.reset.sp.val = (0 : Fin 16).val ∧ ({ State.reset with sp := 15 } : State).sp.val = (15 : Fin 16).val ∧
    (0xFFE : Addr12).toNat ≤ 4094 ∧ ({ State.reset with sp := 16 } : State).sp.val = 16 ∧
    ({ State.reset with sp := 15 } : State).sp.val < 16 ∧ 4094 < (0xFFF : Addr12).toNat := by decide

theorem witness_JumpPlusV0GoesToTheSum :
    (0xFF0 : Addr12).toNat + ((withRegs [(0, 0x0E)]).reg 0).toNat ≤ 4094 ∧
    4094 < (0xFF0 : Addr12).toNat + ((withRegs [(0, 0x0F)]).reg 0).toNat := by decide

/-- Both conditions met, at the highest `pc` that still skips and at the next. -/
theorem witness_ConstantSkipsFollowTheirCondition :
    (State.reset.reg 4).toNat = (0 : Byte).toNat ∧ (State.reset.reg 4).toNat ≠ (1 : Byte).toNat ∧
    (State.reset.setPc 0xFFC).pc.toNat + 2 ≤ 4094 ∧ 4094 < (State.reset.setPc 0xFFD).pc.toNat + 2 := by decide

theorem witness_RegisterSkipsFollowTheirCondition :
    ((withRegs [(1, 7)]).reg 1).toNat = ((withRegs [(1, 7)]).reg 1).toNat ∧
    ((withRegs [(1, 7)]).reg 1).toNat ≠ ((withRegs [(1, 7)]).reg 15).toNat ∧
    ((withRegs [(1, 7)]).setPc 0xFFC).pc.toNat + 2 ≤ 4094 ∧ 4094 < ((withRegs [(1, 7)]).setPc 0xFFD).pc.toNat + 2 := by decide

/-- A register of 16, and of 15 with its key down and up, on both sides of the bound. -/
theorem witness_KeySkipsFollowTheSample :
    15 < ((withRegs [(1, 16)]).reg 1).toNat ∧ ((withRegs [(1, 15)]).reg 1).toNat = (15 : Key).val ∧
    ((withRegs [(1, 15)]).setPc 0xFFC).pc.toNat + 2 ≤ 4094 ∧
    4094 < ((withRegs [(1, 15)]).setPc 0xFFD).pc.toNat + 2 ∧
    ({ withRegs [(1, 15)] with pc := 0xFFD, keys := 0x8000 } : State).keys.getLsbD 15 = true ∧
    ((withRegs [(1, 15)]).setPc 0xFFD).keys.getLsbD 15 = false := by decide

/-- For the logic, flag and shift statements: a destination below 15, and destination 15 under the default policy. -/
theorem witness_LogicFormsWriteNoFlag : (14 : Reg) ≠ 15 ∧ (15 : Reg) = 15 ∧ State.reset.vfDestPolicy = .fault := by decide

theorem witness_SumAndDifferenceFormsSetTheFlag : (0 : Reg) ≠ 15 ∧ (15 : Reg) = 15 ∧ State.reset.vfDestPolicy = .fault := by
  decide

theorem witness_ShiftFormsReadTheSecondOperand : (14 : Reg) ≠ 15 ∧ (15 : Reg) = 15 ∧ State.reset.vfDestPolicy = .fault := by
  decide

theorem witness_PermittedFlagDestination : ({ State.reset with vfDestPolicy := .permit } : State).vfDestPolicy = .permit := by
  decide

theorem witness_LoadIndexFontPointsAtTheGlyph :
    ((withRegs [(0, 15)]).reg 0).toNat ≤ 15 ∧ 15 < ((withRegs [(0, 16)]).reg 0).toNat := by decide

theorem witness_StoreBcdStoresThreeDigits :
    (State.reset.setIndex 0xFFD).index.toNat + 3 ≤ 4096 ∧ 4096 < (State.reset.setIndex 0xFFE).index.toNat + 3 := by decide

theorem witness_StoreRegistersStoresTheRange :
    (State.reset.setIndex 0xFF0).index.toNat + ((15 : Reg).val + 1) ≤ 4096 ∧
    4096 < (State.reset.setIndex 0xFF1).index.toNat + ((15 : Reg).val + 1) := by decide

theorem witness_LoadRegistersLoadsTheRange :
    (State.reset.setIndex 0xFFF).index.toNat + ((0 : Reg).val + 1) ≤ 4096 ∧
    4096 < (State.reset.setIndex 0x1000).index.toNat + ((0 : Reg).val + 1) := by decide

theorem witness_BcdDigitsAreTheOnlyOnes : (2 : Nat) ≤ 2 ∧ (9 : Nat) ≤ 9 ∧ 100 * 2 + 10 * 5 + 5 = (255 : Byte).toNat := by decide

theorem witness_StoreIsSeenByTheNextFetch :
    1 ≤ (15 : Reg).val ∧ (State.reset.setIndex 0x200).index = (State.reset.setIndex 0x200).pc ∧
    (State.reset.setIndex 0x200).index.toNat + ((15 : Reg).val + 1) ≤ 4096 := by decide

/-- The bound on both sides, a sprite bit on a lit cell, and a clear screen. -/
theorem witness_DrawIsTheSimultaneousXor :
    15 < 16 ∧ (State.reset.setIndex 0xFF1).index.toNat + 15 ≤ 4096 ∧ 4096 < (State.reset.setIndex 0xFF2).index.toNat + 15 ∧
    Framebuffer.cell ({ State.reset with fb := lit [(0, 0)] } : State).fb 0 0 = true ∧
    spriteCovers ({ State.reset with fb := lit [(0, 0)] }) 0 0 5 0 0 = true ∧
    Framebuffer.cell State.reset.fb 0 0 = false := by decide

/-- The whole sprite on dark cells: nothing is lit after reset. -/
theorem witness_DrawingTwiceRestoresTheScreen :
    5 < 16 ∧ (0 : Reg) ≠ 15 ∧ (1 : Reg) ≠ 15 ∧ State.reset.index.toNat + 5 ≤ 4096 ∧
    spriteCovers State.reset 0 1 5 0 0 = true ∧ Framebuffer.cell State.reset.fb 0 0 = false := by decide

theorem witness_DrawingTwiceOnDarkCells (px : Fin 64) (py : Fin 32) :
    spriteCovers State.reset 0 1 5 px py = true → Framebuffer.cell State.reset.fb px py = false := by
  intro _
  simp [Framebuffer.cell, State.reset]

theorem witness_SoundStoreStartsTheTone : (withRegs [(0, 1)]).reg 0 ≠ 0 ∧ State.reset.reg 0 = 0 := by decide

theorem witness_FaultsFollowTheCauseTable : State.reset.run = .running := by decide

theorem witness_FaultsArePrecise :
    State.reset.run = .running ∧
    nextHolds (exec .ret State.reset) (fun t => t.run = .faulted .stackUnderflow) = true := by decide

theorem witness_RegistersAreWrittenAsTabled :
    (15 : Reg) ∉ regWrites (.loadRegisters 14) ∧
    nextHolds (exec (.loadRegisters 14) State.reset) (fun _ => true) = true := by decide

theorem witness_RegistersAreReadAsTabled :
    (15 : Reg) ∉ regReads (.storeRegisters 14) ∧ (15 : Reg) ∉ regWrites (.storeRegisters 14) ∧
    (15 : Reg) ∉ regReads (.draw 0 1 0) ∧ (15 : Reg) ∈ regWrites (.draw 0 1 0) ∧
    nextHolds (exec (.draw 0 1 0) State.reset) (fun t => t.run = .running) = true := by decide

/-- A taken skip. -/
theorem witness_PcAfterASlotIsAsTabled :
    nextHolds (exec (.skipEqConst 0 0) State.reset) (fun t => t.run = .running && t.pc = 0x202) = true := by decide

theorem witness_OnlyStoresChangeMemory :
    stepHolds 0xF055 ({ withRegs [(0, 0xAB)] with index := 0x300 }) (fun t => t.readByte 0x300 = 0xAB) = true ∧
    (place 0xF055 quiet ({ withRegs [(0, 0xAB)] with index := 0x300 })).readByte 0x300 = 0 := by decide

theorem witness_OnlyCallAndReturnChangeTheStack :
    stepHolds 0x2300 State.reset (fun t => t.sp = 1 && t.stack[0] = 0x202) = true ∧
    (place 0x2300 quiet State.reset).sp = 0 ∧ (place 0x2300 quiet State.reset).stack[0] = 0 := by decide

theorem witness_ScreenAndIndexChangeOnlyByTheirForms :
    stepHolds 0xD015 State.reset (fun t => Framebuffer.cell t.fb 0 0) = true ∧
    Framebuffer.cell (place 0xD015 quiet State.reset).fb 0 0 = false ∧
    stepHolds 0xA300 State.reset (fun t => t.index = 0x300) = true ∧ (place 0xA300 quiet State.reset).index = 0 := by decide

/-- The other three forms of the statement: a lit cell cleared, and `I` moved by a register and by a digit. -/
theorem witness_ScreenAndIndexOtherForms :
    stepHolds 0x00E0 ({ State.reset with fb := lit [(63, 31)] }) (fun t => !Framebuffer.cell t.fb 63 31) = true ∧
    Framebuffer.cell (place 0x00E0 quiet ({ State.reset with fb := lit [(63, 31)] })).fb 63 31 = true ∧
    stepHolds 0xF11E (withRegs [(1, 0x20)]) (fun t => t.index = 0x20) = true ∧
    (place 0xF11E quiet (withRegs [(1, 0x20)])).index = 0 ∧
    stepHolds 0xF029 (withRegs [(0, 0x0F)]) (fun t => t.index = 0x4B) = true ∧
    (place 0xF029 quiet (withRegs [(0, 0x0F)])).index = 0 := by decide

theorem witness_TimersChangeOnlyByTickOrStore :
    stepHolds 0xF015 (withRegs [(0, 3)]) (fun t => t.dt = 3) = true ∧
    stepHolds 0xF018 (withRegs [(0, 3)]) (fun t => t.st = 3 && t.tone) = true ∧
    nextHolds (step ({ State.reset with st := 1, tone := true, agenda := [tickInput] })) (fun t => !t.tone) = true := by decide

theorem witness_JumpToItselfIsIdle :
    Executes (place 0x1200 quiet State.reset) (.jump 0x200) ∧
    (0x200 : Addr12).toNat = (place 0x1200 quiet State.reset).pc.toNat :=
  ⟨⟨by decide, by decide, by decide, by decide⟩, by decide⟩

end Sys2Proof.Tests
end

section
/-! PROOFS. The obligations of 20_memory.md. -/

namespace Sys2Proof.Machine

/-- 20_memory.md R52: which two addresses the fetch reads, and which of the two bytes is the high one. -/
theorem State.fetchWord_eq_wordOfBytes (s : State) :
    s.fetchWord = wordOfBytes (s.readByte s.pc.toNat) (s.readByte (s.pc.toNat + 1)) := rfl

/-- Settles O9: the fetched word is put together from the two bytes, and `toNat_wordOfBytes` gives its number. -/
theorem fetchIsBigEndian : Obligations.FetchIsBigEndian := by
  intro s
  rw [s.fetchWord_eq_wordOfBytes, toNat_wordOfBytes]

end Sys2Proof.Machine
end

section
/-! PROOFS. The obligations of 30_encoding.md. -/

namespace Sys2Proof.Machine

/-- The number of `len` bits of a word from bit `start` up. -/
theorem toNat_slice (w : Word) (start len : Nat) :
    (w.extractLsb' start len).toNat = w.toNat / 2 ^ start % 2 ^ len := by
  rw [BitVec.extractLsb'_toNat, Nat.shiftRight_eq_div_pow]

/-- The number of the lowest `len` bits of a word. -/
theorem toNat_low_slice (w : Word) (len : Nat) : (w.extractLsb' 0 len).toNat = w.toNat % 2 ^ len := by
  rw [toNat_slice, pow_zero, Nat.div_one]

/-! ### The fields as numbers (30_encoding.md R71) -/

theorem toNat_fieldG (w : Word) : (fieldG w).toNat = w.toNat / 4096 := by
  have hslice : (fieldG w).toNat = w.toNat / 4096 % 16 := toNat_slice w 12 4
  have hword : w.toNat < 65536 := w.isLt
  omega

theorem val_fieldX (w : Word) : (fieldX w).val = w.toNat / 256 % 16 := toNat_slice w 8 4

theorem val_fieldY (w : Word) : (fieldY w).val = w.toNat / 16 % 16 := toNat_slice w 4 4

theorem toNat_fieldN (w : Word) : (fieldN w).toNat = w.toNat % 16 := toNat_low_slice w 4

theorem toNat_fieldNN (w : Word) : (fieldNN w).toNat = w.toNat % 256 := toNat_low_slice w 8

theorem toNat_fieldNNN (w : Word) : (fieldNNN w).toNat = w.toNat % 4096 := toNat_low_slice w 12

/-- `NN` is `Y` followed by `N`: a remainder by 16 * 16 splits at the lower digit. -/
theorem toNat_fieldNN_eq_fieldY_fieldN (w : Word) :
    (fieldNN w).toNat = 16 * (fieldY w).val + (fieldN w).toNat := by
  rw [toNat_fieldNN, val_fieldY, toNat_fieldN]
  omega

/-- `NNN` is `X` followed by `NN`: a remainder by 256 * 16 splits at the lower byte. -/
theorem toNat_fieldNNN_eq_fieldX_fieldNN (w : Word) :
    (fieldNNN w).toNat = 256 * (fieldX w).val + (fieldNN w).toNat := by
  rw [toNat_fieldNNN, val_fieldX, toNat_fieldNN]
  omega

/-- Settles O5: every field is a slice of the word, whose number `toNat_slice` or `toNat_low_slice` gives. -/
theorem fieldsAreTheirBitSlices : Obligations.FieldsAreTheirBitSlices := fun w =>
  ⟨toNat_fieldG w, val_fieldX w, val_fieldY w, toNat_fieldN w, toNat_fieldNN w, toNat_fieldNNN w,
    toNat_fieldNN_eq_fieldY_fieldN w, toNat_fieldNNN_eq_fieldX_fieldNN w⟩

end Sys2Proof.Machine
end

section
/-! PROOFS. The obligations of 40_control_flow.md. -/

namespace Sys2Proof.Machine

/-! ### The program counter moves alone (10_state.md R26) -/

theorem State.unchangedBut_setPc (s : State) (v : Word) : UnchangedBut [.pc] s (s.setPc v) := by
  apply UnchangedBut.of_fields <;> simp

/-! ### A transfer (40_control_flow.md R109) -/

/-- The target is below 65536, so writing it to `pc` loses nothing. -/
theorem State.transfer_reaches (s : State) {n : Nat} (h : n ≤ 4094) :
    (s.transfer n).pc.toNat = n ∧ UnchangedBut [.pc] s (s.transfer n) := by
  rcases s.transfer_cases n with ⟨_, e⟩ | ⟨hgt, _⟩
  · rw [e, State.setPc_pc, BitVec.toNat_ofNat]
    exact ⟨Nat.mod_eq_of_lt (by omega), s.unchangedBut_setPc _⟩
  · omega

theorem State.transfer_faults (s : State) {n : Nat} (h : 4094 < n) :
    (s.transfer n).run = .faulted .addressOutOfRange := by
  rcases s.transfer_cases n with ⟨hle, _⟩ | ⟨_, e⟩
  · omega
  · rw [e, State.raise_run]

/-! ### A skip (40_control_flow.md R103) -/

theorem State.skip_reaches (s : State) (h : s.pc.toNat + 2 ≤ 4094) :
    s.skip.pc.toNat = s.pc.toNat + 2 ∧ UnchangedBut [.pc] s s.skip := by
  rcases s.skip_cases with ⟨_, e⟩ | ⟨hgt, _⟩
  · rw [e, State.setPc_pc]
    exact ⟨s.pc_add_two (by omega), s.unchangedBut_setPc _⟩
  · omega

theorem State.skip_faults (s : State) (h : 4094 < s.pc.toNat + 2) :
    s.skip.run = .faulted .addressOutOfRange := by
  rcases s.skip_cases with ⟨hle, _⟩ | ⟨_, e⟩
  · omega
  · rw [e, State.raise_run]

@[simp] theorem State.skipIf_true (s : State) : s.skipIf true = s.skip := rfl
@[simp] theorem State.skipIf_false (s : State) : s.skipIf false = s := rfl

/-- A form whose meaning is a conditional skip on a test `b` that decides `c`. -/
theorem skipsWhen_of_exec_skipIf {i : Instr} {b : State → Bool} {c : State → Prop}
    (hexec : ∀ s, exec i s = .next (s.skipIf (b s))) (hb : ∀ s, b s = true ↔ c s) : SkipsWhen i c := by
  intro s
  rw [← hb s, hexec s]
  cases b s with
  | true =>
    rw [State.skipIf_true]
    exact ⟨fun _ h => ⟨s.skip, rfl, s.skip_reaches h⟩, fun _ h => ⟨s.skip, rfl, s.skip_faults h⟩,
      fun hc => absurd rfl hc⟩
  | false =>
    rw [State.skipIf_false]
    exact ⟨fun hc => absurd hc Bool.false_ne_true, fun hc => absurd hc Bool.false_ne_true,
      fun _ => ⟨s, rfl, UnchangedBut.refl [] s⟩⟩

/-! ### The forms -/

theorem exec_jump (nnn : Addr12) (s : State) : exec (.jump nnn) s = .next (s.transfer nnn.toNat) := rfl

theorem exec_skipEqConst (x : Reg) (nn : Byte) (s : State) :
    exec (.skipEqConst x nn) s = .next (s.skipIf (s.reg x == nn)) := rfl

theorem exec_skipNeConst (x : Reg) (nn : Byte) (s : State) :
    exec (.skipNeConst x nn) s = .next (s.skipIf (s.reg x != nn)) := rfl

/-- Settles O25: jump is the transfer to `NNN`. -/
theorem jumpGoesToItsTarget : Obligations.JumpGoesToItsTarget := fun nnn s =>
  ⟨fun h => ⟨_, exec_jump nnn s, s.transfer_reaches h⟩, fun h => ⟨_, exec_jump nnn s, s.transfer_faults h⟩⟩

/-- Settles O28: both forms are a conditional skip, and two bytes are equal exactly when their numbers are. -/
theorem constantSkipsFollowTheirCondition : Obligations.ConstantSkipsFollowTheirCondition := by
  intro x nn
  constructor
  · exact skipsWhen_of_exec_skipIf (exec_skipEqConst x nn) fun _ => beq_iff_eq.trans BitVec.toNat_inj.symm
  · exact skipsWhen_of_exec_skipIf (exec_skipNeConst x nn) fun _ => bne_iff_ne.trans BitVec.toNat_ne_iff_ne.symm

end Sys2Proof.Machine
end

section
/-! PROOFS. The obligations of 41_alu.md. -/

namespace Sys2Proof.Machine

/-! ### A register moves alone -/

theorem State.unchangedBut_setReg (s : State) (x : Reg) (v : Byte) : UnchangedBut [.regs] s (s.setReg x v) := by
  apply UnchangedBut.of_fields <;> simp

/-! ### The result without a flag (41_alu.md R122) -/

theorem State.arith_of_ne (s : State) {x : Reg} (y : Reg) (f : Byte → Byte → Byte) (h : x ≠ 15) :
    s.arith x y f = s.setReg x (f (s.reg x) (s.reg y)) := by
  rcases s.arith_cases x y f with ⟨hx, _, _⟩ | ⟨_, e⟩
  · exact absurd hx h
  · exact e

theorem State.arith_faults (s : State) {x : Reg} (y : Reg) (f : Byte → Byte → Byte) (hx : x = 15)
    (hp : s.vfDestPolicy = .fault) : (s.arith x y f).run = .faulted .invalidRegisterOperand := by
  rcases s.arith_cases x y f with ⟨_, _, e⟩ | ⟨h, _⟩
  · rw [e, State.raise_run]
  · exact absurd ⟨hx, hp⟩ h

/-- A form whose meaning is `State.arith` of a byte operation that acts as `f` on each bit. -/
theorem logicForm_of_exec_arith {form : Reg → Reg → Instr} {op : Byte → Byte → Byte} {f : Bool → Bool → Bool}
    (hexec : ∀ x y s, exec (form x y) s = .next (s.arith x y op))
    (hbit : ∀ a b k, (op a b).getLsbD k = f (a.getLsbD k) (b.getLsbD k)) : LogicForm form f := by
  intro x y s
  rw [hexec x y s]
  constructor
  · intro hx
    refine ⟨_, rfl, ?_⟩
    rw [s.arith_of_ne y op hx, State.reg_setReg_self]
    exact ⟨fun k _ => hbit _ _ k, fun r hr => s.reg_setReg_ne x r _ hr, s.unchangedBut_setReg x _⟩
  · exact fun hx hp => ⟨_, rfl, s.arith_faults y op hx hp⟩

/-! ### The forms -/

theorem exec_copy (x y : Reg) (s : State) : exec (.copy x y) s = .next (s.arith x y fun _ b => b) := rfl

theorem exec_bitOr (x y : Reg) (s : State) : exec (.bitOr x y) s = .next (s.arith x y fun a b => a ||| b) := rfl

theorem exec_bitAnd (x y : Reg) (s : State) : exec (.bitAnd x y) s = .next (s.arith x y fun a b => a &&& b) := rfl

theorem exec_bitXor (x y : Reg) (s : State) : exec (.bitXor x y) s = .next (s.arith x y fun a b => a ^^^ b) := rfl

/-- Settles O32: each form is the shared arithmetic operation, and its byte operation acts bit by bit. -/
theorem logicFormsWriteNoFlag : Obligations.LogicFormsWriteNoFlag :=
  ⟨logicForm_of_exec_arith exec_copy fun _ _ _ => rfl,
    logicForm_of_exec_arith exec_bitOr fun _ _ _ => BitVec.getLsbD_or,
    logicForm_of_exec_arith exec_bitAnd fun _ _ _ => BitVec.getLsbD_and,
    logicForm_of_exec_arith exec_bitXor fun _ _ _ => BitVec.getLsbD_xor⟩

end Sys2Proof.Machine
end

section
/-! PROOFS. The obligations of 42_index_memory.md. -/

namespace Sys2Proof.Machine

/-! ### Frames compose -/

theorem UnchangedBut.mono {cs ds : List Component} {s t : State} (h : UnchangedBut cs s t) (hsub : cs ⊆ ds) :
    UnchangedBut ds s t :=
  fun c hc => h c fun hmem => hc (hsub hmem)

theorem UnchangedBut.trans {cs : List Component} {s t u : State} (h : UnchangedBut cs s t) (h' : UnchangedBut cs t u) :
    UnchangedBut cs s u := by
  intro c hc
  have hst := h c hc
  have htu := h' c hc
  cases c with
  | regs => exact fun r => (htu r).trans (hst r)
  | stack => exact fun k => (htu k).trans (hst k)
  | fb => exact fun x y => (htu x y).trans (hst x y)
  | mem => exact fun a => (htu a).trans (hst a)
  | _ => exact Eq.trans htu hst

/-! ### The frame of each update of the state -/

theorem State.unchangedBut_setIndex (s : State) (v : Word) : UnchangedBut [.index] s (s.setIndex v) := by
  apply UnchangedBut.of_fields <;> simp

theorem State.unchangedBut_setMem (s : State) (m : Memory) : UnchangedBut [.mem] s (s.setMem m) := by
  apply UnchangedBut.of_fields <;> simp

theorem State.unchangedBut_setFb (s : State) (f : Framebuffer) : UnchangedBut [.fb] s (s.setFb f) := by
  apply UnchangedBut.of_fields <;> simp

theorem State.unchangedBut_setRegs (s : State) (v : Vector Byte 16) : UnchangedBut [.regs] s (s.setRegs v) := by
  apply UnchangedBut.of_fields <;> simp

theorem State.unchangedBut_setDt (s : State) (v : Byte) : UnchangedBut [.dt] s (s.setDt v) := by
  apply UnchangedBut.of_fields <;> simp

theorem State.unchangedBut_storeSound (s : State) (v : Byte) : UnchangedBut [.st, .tone] s (s.storeSound v) := by
  apply UnchangedBut.of_fields <;> simp

theorem State.unchangedBut_raise (s : State) (k : FaultKind) : UnchangedBut [.run] s (s.raise k) := by
  apply UnchangedBut.of_fields <;> simp

theorem State.unchangedBut_pushPc (s : State) : UnchangedBut [.stack, .sp] s s.pushPc := by
  apply UnchangedBut.of_fields <;> simp

theorem State.unchangedBut_popPc (s : State) : UnchangedBut [.pc, .sp] s s.popPc := by
  apply UnchangedBut.of_fields <;> simp

theorem State.unchangedBut_suspend (s : State) (x : Reg) : UnchangedBut [.run, .waitBase] s (s.suspend x) := by
  apply UnchangedBut.of_fields <;> simp

theorem State.unchangedBut_tick (s : State) : UnchangedBut [.dt, .st, .tone] s s.tick := by
  apply UnchangedBut.of_fields <;> simp

theorem State.unchangedBut_present (s : State) (i : Input) : UnchangedBut [.keys, .rand] s (s.present i) := by
  apply UnchangedBut.of_fields <;> simp

theorem State.unchangedBut_takeInput (s : State) : UnchangedBut [.agenda, .inputIndex] s s.takeInput := by
  apply UnchangedBut.of_fields <;> simp

/-! ### The frame of each shared operation, faulting or not -/

theorem State.unchangedBut_transfer (s : State) (n : Nat) : UnchangedBut [.pc, .run] s (s.transfer n) := by
  rcases s.transfer_cases n with ⟨_, e⟩ | ⟨_, e⟩
  · rw [e]
    exact (s.unchangedBut_setPc _).mono (by simp)
  · rw [e]
    exact (s.unchangedBut_raise _).mono (by simp)

theorem State.unchangedBut_skipIf (s : State) (c : Bool) : UnchangedBut [.pc, .run] s (s.skipIf c) := by
  rcases s.skipIf_cases c with ⟨_, e⟩ | ⟨_, _, e⟩ | ⟨_, _, e⟩
  · rw [e]
    exact UnchangedBut.refl _ s
  · rw [e]
    exact (s.unchangedBut_setPc _).mono (by simp)
  · rw [e]
    exact (s.unchangedBut_raise _).mono (by simp)

theorem State.unchangedBut_skipOnKey (s : State) (x : Reg) (level : Bool) :
    UnchangedBut [.pc, .run] s (s.skipOnKey x level) := by
  rcases s.skipOnKey_cases x level with ⟨_, e⟩ | ⟨_, _, e⟩
  · rw [e]
    exact (s.unchangedBut_raise _).mono (by simp)
  · rw [e]
    exact s.unchangedBut_skipIf _

theorem State.unchangedBut_arith (s : State) (x y : Reg) (f : Byte → Byte → Byte) :
    UnchangedBut [.regs, .run] s (s.arith x y f) := by
  rcases s.arith_cases x y f with ⟨_, _, e⟩ | ⟨_, e⟩
  · rw [e]
    exact (s.unchangedBut_raise _).mono (by simp)
  · rw [e]
    exact (s.unchangedBut_setReg x _).mono (by simp)

theorem State.unchangedBut_arithFlag (s : State) (x y : Reg) (f : Byte → Byte → Byte) (flag : Byte → Byte → Bool) :
    UnchangedBut [.regs, .run] s (s.arithFlag x y f flag) := by
  rcases s.arithFlag_cases x y f flag with ⟨_, _, e⟩ | ⟨_, e⟩
  · rw [e]
    exact (s.unchangedBut_raise _).mono (by simp)
  · rw [e]
    exact ((s.unchangedBut_setReg x _).trans (State.unchangedBut_setReg _ 15 _)).mono (by simp)

theorem State.unchangedBut_storeAtIndex (s : State) (bs : List Byte) :
    UnchangedBut [.mem, .run] s (s.storeAtIndex bs) := by
  rcases s.storeAtIndex_cases bs with ⟨_, e⟩ | ⟨_, e⟩
  · rw [e]
    exact (s.unchangedBut_setMem _).mono (by simp)
  · rw [e]
    exact (s.unchangedBut_raise _).mono (by simp)

theorem State.unchangedBut_loadFromIndex (s : State) (x : Reg) : UnchangedBut [.regs, .run] s (s.loadFromIndex x) := by
  rcases s.loadFromIndex_cases x with ⟨_, e⟩ | ⟨_, e⟩
  · rw [e]
    exact (s.unchangedBut_setRegs _).mono (by simp)
  · rw [e]
    exact (s.unchangedBut_raise _).mono (by simp)

theorem unchangedBut_waitSlot (x : Reg) (i : Input) (s : State) :
    UnchangedBut [.regs, .run, .keys, .waitBase] s (waitSlot x i s) := by
  rcases waitSlot_cases x i s with ⟨_, e⟩ | ⟨_, e⟩
  · rw [e]
    apply UnchangedBut.of_fields <;> simp
  · rw [e]
    apply UnchangedBut.of_fields <;> simp

/-! ### The frame of each instruction -/

/-- The parts of the state that a form can change, in a slot that completes or faults. -/
def partsWritten : Instr → List Component
  | .clearScreen => [.fb]
  | .draw _ _ _ => [.regs, .fb, .run]
  | .ret => [.pc, .sp, .run]
  | .call _ => [.pc, .stack, .sp, .run]
  | .jump _ | .jumpPlusV0 _ | .skipEqConst _ _ | .skipNeConst _ _ | .skipEqReg _ _ | .skipNeReg _ _
  | .skipIfKeyDown _ | .skipIfKeyUp _ => [.pc, .run]
  | .loadConst _ _ | .addConst _ _ | .randomMasked _ _ | .loadFromDelayTimer _ => [.regs]
  | .copy _ _ | .bitOr _ _ | .bitAnd _ _ | .bitXor _ _ | .addWithCarry _ _ | .subWithBorrow _ _ | .shiftRight _ _
  | .subReverseWithBorrow _ _ | .shiftLeft _ _ | .loadRegisters _ => [.regs, .run]
  | .loadIndex _ | .addIndexFromReg _ => [.index]
  | .loadIndexFont _ => [.index, .run]
  | .storeBcd _ | .storeRegisters _ => [.mem, .run]
  | .storeToDelayTimer _ => [.dt]
  | .storeToSoundTimer _ => [.st, .tone]
  | .waitForKey _ => [.run, .waitBase]

theorem execRet_frame (s : State) : ∃ t, execRet s = .next t ∧ UnchangedBut [.pc, .sp, .run] s t := by
  refine ⟨_, rfl, ?_⟩
  split
  · exact (s.unchangedBut_raise _).mono (by simp)
  · exact s.unchangedBut_popPc.mono (by simp)

theorem execCall_frame (nnn : Addr12) (s : State) :
    ∃ t, execCall nnn s = .next t ∧ UnchangedBut [.pc, .stack, .sp, .run] s t := by
  refine ⟨_, rfl, ?_⟩
  split
  · exact (s.unchangedBut_raise _).mono (by simp)
  · split
    · exact (s.unchangedBut_raise _).mono (by simp)
    · exact (s.unchangedBut_pushPc.mono (by simp)).trans ((s.pushPc.unchangedBut_setPc _).mono (by simp))

theorem execDraw_frame (x y : Reg) (n : Nat) (s : State) :
    ∃ t, execDraw x y n s = .next t ∧ UnchangedBut [.regs, .fb, .run] s t := by
  refine ⟨_, rfl, ?_⟩
  split
  · exact ((s.unchangedBut_setFb _).mono (by simp)).trans ((State.unchangedBut_setReg _ 15 _).mono (by simp))
  · exact (s.unchangedBut_raise _).mono (by simp)

theorem execLoadIndexFont_frame (x : Reg) (s : State) :
    ∃ t, execLoadIndexFont x s = .next t ∧ UnchangedBut [.index, .run] s t := by
  refine ⟨_, rfl, ?_⟩
  split
  · split
    · exact (s.unchangedBut_raise _).mono (by simp)
    · exact (s.unchangedBut_setIndex _).mono (by simp)
  · exact (s.unchangedBut_raise _).mono (by simp)

/-- Every form answers a next state and changes only its own parts. -/
theorem exec_frame (i : Instr) (s : State) : ∃ t, exec i s = .next t ∧ UnchangedBut (partsWritten i) s t := by
  cases i with
  | clearScreen => exact ⟨_, rfl, s.unchangedBut_setFb _⟩
  | draw x y n => exact execDraw_frame x y n s
  | ret => exact execRet_frame s
  | call nnn => exact execCall_frame nnn s
  | jump _ | jumpPlusV0 _ => exact ⟨_, rfl, s.unchangedBut_transfer _⟩
  | skipEqConst _ _ | skipNeConst _ _ | skipEqReg _ _ | skipNeReg _ _ => exact ⟨_, rfl, s.unchangedBut_skipIf _⟩
  | skipIfKeyDown x | skipIfKeyUp x => exact ⟨_, rfl, s.unchangedBut_skipOnKey x _⟩
  | loadConst x _ | addConst x _ | randomMasked x _ | loadFromDelayTimer x => exact ⟨_, rfl, s.unchangedBut_setReg x _⟩
  | copy x y | bitOr x y | bitAnd x y | bitXor x y => exact ⟨_, rfl, s.unchangedBut_arith x y _⟩
  | addWithCarry x y | subWithBorrow x y | shiftRight x y | subReverseWithBorrow x y | shiftLeft x y =>
    exact ⟨_, rfl, s.unchangedBut_arithFlag x y _ _⟩
  | loadIndex _ | addIndexFromReg _ => exact ⟨_, rfl, s.unchangedBut_setIndex _⟩
  | loadIndexFont x => exact execLoadIndexFont_frame x s
  | storeBcd _ | storeRegisters _ => exact ⟨_, rfl, s.unchangedBut_storeAtIndex _⟩
  | loadRegisters x => exact ⟨_, rfl, s.unchangedBut_loadFromIndex x⟩
  | storeToDelayTimer _ => exact ⟨_, rfl, s.unchangedBut_setDt _⟩
  | storeToSoundTimer _ => exact ⟨_, rfl, s.unchangedBut_storeSound _⟩
  | waitForKey x => exact ⟨_, rfl, s.unchangedBut_suspend x⟩

theorem unchangedBut_of_exec {i : Instr} {s t : State} (h : exec i s = .next t) : UnchangedBut (partsWritten i) s t := by
  obtain ⟨u, hu, hframe⟩ := exec_frame i s
  cases hu.symm.trans h
  exact hframe

/-! ### The frame of a step -/

/-- The parts that a step can change without an instruction: by a tick, by a wait slot, or by a slot up to its decode. -/
def partsOfAgents : List Component :=
  [.regs, .pc, .dt, .st, .tone, .run, .keys, .waitBase, .rand, .agenda, .inputIndex]

theorem unchangedBut_advanced (s : State) : UnchangedBut partsOfAgents s (s.takeInput.present s.input).advance :=
  (s.unchangedBut_takeInput.mono (by simp [partsOfAgents])).trans
    (((s.takeInput.unchangedBut_present s.input).mono (by simp [partsOfAgents])).trans
      ((State.unchangedBut_setPc _ _).mono (by simp [partsOfAgents])))

/-- Every step keeps the other parts, but for those that the form it executes writes. -/
theorem step_frame {s t : State} (h : step s = .next t) :
    UnchangedBut partsOfAgents s t ∨ ∃ i, Executes s i ∧ UnchangedBut (partsOfAgents ++ partsWritten i) s t := by
  have htake : UnchangedBut partsOfAgents s s.takeInput := s.unchangedBut_takeInput.mono (by simp [partsOfAgents])
  have hraise : ∀ (u : State) (k : FaultKind), UnchangedBut partsOfAgents u (u.raise k) := fun u k =>
    (u.unchangedBut_raise k).mono (by simp [partsOfAgents])
  rcases step_next_cases s t h with ⟨_, _, rfl⟩ | ⟨_, _, _, rfl⟩ | ⟨_, _, _, _, _, rfl⟩ | ⟨i, hi, hexec⟩ | ⟨x, _, _, rfl⟩
  case inl => exact .inl (htake.trans (s.takeInput.unchangedBut_tick.mono (by simp [partsOfAgents])))
  case inr.inl =>
    have hpresent := s.takeInput.unchangedBut_present s.input
    exact .inl (htake.trans ((hpresent.mono (by simp [partsOfAgents])).trans (hraise _ _)))
  case inr.inr.inl => exact .inl ((unchangedBut_advanced s).trans (hraise _ _))
  case inr.inr.inr.inl =>
    exact .inr ⟨i, hi, ((unchangedBut_advanced s).mono (List.subset_append_left _ _)).trans
      ((unchangedBut_of_exec hexec).mono (List.subset_append_right _ _))⟩
  case inr.inr.inr.inr =>
    exact .inl (htake.trans ((unchangedBut_waitSlot x s.input s.takeInput).mono (by simp [partsOfAgents])))

/-- A part that no agent changes by itself changes only in a slot that executes a form which writes it. -/
theorem executes_of_changed {s t : State} {c : Component} (h : step s = .next t) (hc : c ∉ partsOfAgents)
    (hne : ¬ c.Same s t) : ∃ i, Executes s i ∧ c ∈ partsWritten i := by
  rcases step_frame h with hframe | ⟨i, hi, hframe⟩
  · exact absurd (hframe c hc) hne
  · refine ⟨i, hi, ?_⟩
    by_contra hout
    exact hne (hframe c (by simp [hc, hout]))

theorem fb_mem_partsWritten_iff (i : Instr) :
    .fb ∈ partsWritten i ↔ i = .clearScreen ∨ ∃ x y n, i = .draw x y n := by
  cases i <;> simp [partsWritten]

theorem index_mem_partsWritten_iff (i : Instr) :
    .index ∈ partsWritten i ↔
      (∃ nnn, i = .loadIndex nnn) ∨ (∃ x, i = .addIndexFromReg x) ∨ ∃ x, i = .loadIndexFont x := by
  cases i <;> simp [partsWritten]

/-- Settles O58: neither the screen nor `I` is a part that an agent changes by itself, so the step executed a form that
writes it, and `partsWritten` lists which forms do. -/
theorem screenAndIndexChangeOnlyByTheirForms : Obligations.ScreenAndIndexChangeOnlyByTheirForms := by
  intro s t h
  constructor
  · rintro ⟨px, py, hne⟩
    obtain ⟨i, hi, hmem⟩ := executes_of_changed h (c := .fb) (by decide) fun hsame => hne (hsame px py)
    rcases (fb_mem_partsWritten_iff i).mp hmem with rfl | ⟨x, y, n, rfl⟩
    · exact .inl hi
    · exact .inr ⟨x, y, n, hi⟩
  · intro hne
    obtain ⟨i, hi, hmem⟩ := executes_of_changed h (c := .index) (by decide) hne
    rcases (index_mem_partsWritten_iff i).mp hmem with ⟨nnn, rfl⟩ | ⟨x, rfl⟩ | ⟨x, rfl⟩
    · exact .inl ⟨nnn, hi⟩
    · exact .inr (.inl ⟨x, hi⟩)
    · exact .inr (.inr ⟨x, hi⟩)

/-! ### load-index -/

theorem exec_loadIndex (nnn : Addr12) (s : State) : exec (.loadIndex nnn) s = .next (s.setIndex (nnn.zeroExtend 16)) := rfl

/-- Settles O37: a 12-bit address loses nothing in the 16 bits of `I`. -/
theorem loadIndexSetsI : Obligations.LoadIndexSetsI := by
  intro nnn s
  refine ⟨_, exec_loadIndex nnn s, ?_, s.unchangedBut_setIndex _⟩
  rw [State.setIndex_index]
  exact BitVec.toNat_setWidth_of_le (by decide)

/-! ### The image of a sprite -/

/-- A cell is covered exactly when some set bit of the sprite lands on it. The sprite is no taller than the screen, so its rows
do not overlap. -/
theorem spriteCovers_iff (s : State) (x y : Reg) {n : Nat} (hn : n ≤ 32) (px : Fin 64) (py : Fin 32) :
    spriteCovers s x y n px py = true ↔
      ∃ r k, r < n ∧ k < 8 ∧ (s.readByte (s.index.toNat + r)).getLsbD (7 - k) = true ∧
        px = wrapX ((s.reg x).toNat + k) ∧ py = wrapY ((s.reg y).toNat + r) := by
  simp only [spriteCovers, Bool.and_eq_true, decide_eq_true_eq]
  constructor
  · rintro ⟨⟨hk, hr⟩, hbit⟩
    exact ⟨_, _, hr, hk, hbit, (eq_wrapX_iff _ _ px (by omega)).mpr rfl, (eq_wrapY_iff _ _ py (by omega)).mpr rfl⟩
  · rintro ⟨r, k, hr, hk, hbit, hx, hy⟩
    rw [(eq_wrapX_iff _ k px (by omega)).mp hx, (eq_wrapY_iff _ r py (by omega)).mp hy]
    exact ⟨⟨hk, hr⟩, hbit⟩

/-- A sprite covers some cell exactly when one of its bits is set. -/
theorem exists_spriteCovers_iff (s : State) (x y : Reg) {n : Nat} (hn : n ≤ 32) :
    (∃ px py, spriteCovers s x y n px py = true) ↔
      ∃ r c, r < n ∧ c < 8 ∧ (s.readByte (s.index.toNat + r)).getLsbD c = true := by
  simp only [spriteCovers_iff s x y hn]
  constructor
  · rintro ⟨_, _, r, k, hr, _, hbit, _, _⟩
    exact ⟨r, 7 - k, hr, by omega, hbit⟩
  · rintro ⟨r, c, hr, hc, hbit⟩
    have hcol : 7 - (7 - c) = c := by omega
    exact ⟨_, _, r, 7 - c, hr, by omega, by rwa [hcol], rfl, rfl⟩

theorem spriteCovers_congr {s t : State} {x y : Reg} (hmem : t.mem = s.mem) (hindex : t.index = s.index)
    (hx : t.reg x = s.reg x) (hy : t.reg y = s.reg y) (n : Nat) : spriteCovers t x y n = spriteCovers s x y n := by
  funext px py
  simp only [spriteCovers, hindex, hx, hy, State.readByte_congr s t hmem]

/-! ### A drawing (43_display.md R151) -/

theorem State.cell_drawing (s : State) (x y : Reg) {n : Nat} (hn : n ≤ 32) (px : Fin 64) (py : Fin 32) :
    Framebuffer.cell (s.drawing x y n).fb px py = xor (Framebuffer.cell s.fb px py) (spriteCovers s x y n px py) := by
  rw [State.drawing, drawSprite, Drawing.cell_rows _ _ _ _ _ _ (by simpa using hn), Memory.length_readBytes]
  by_cases hrow : ringOffset 32 (s.reg y).toNat py.val < n
  · rw [Memory.getD_readBytes _ _ _ _ hrow]
    rfl
  · simp [spriteCovers, hrow]

theorem State.collided_drawing_iff (s : State) (x y : Reg) {n : Nat} (hn : n ≤ 32) :
    (s.drawing x y n).collided = true ↔
      ∃ px py, Framebuffer.cell s.fb px py = true ∧ spriteCovers s x y n px py = true := by
  rw [State.drawing, drawSprite, Drawing.collided_rows _ _ _ _ (by simpa using hn)]
  simp only [Memory.length_readBytes, spriteCovers_iff s x y hn]
  constructor
  · rintro (h | ⟨r, k, hr, hk, hbit, hlit⟩)
    · exact absurd h Bool.false_ne_true
    · rw [Memory.getD_readBytes _ _ _ _ hr] at hbit
      exact ⟨_, _, hlit, r, k, hr, hk, hbit, rfl, rfl⟩
  · rintro ⟨_, _, hlit, r, k, hr, hk, hbit, rfl, rfl⟩
    refine .inr ⟨r, k, hr, hk, ?_, hlit⟩
    rwa [Memory.getD_readBytes _ _ _ _ hr]

/-! ### draw -/

/-- The state after a draw whose sprite lies in memory. -/
def State.drawn (s : State) (x y : Reg) (n : Nat) : State :=
  (s.setFb (s.drawing x y n).fb).setReg 15 (flagByte (s.drawing x y n).collided)

theorem exec_draw (x y : Reg) (n : Nat) (s : State) (h : s.index.toNat + n ≤ 4096) :
    exec (.draw x y n) s = .next (s.drawn x y n) :=
  congrArg Host.Outcome.next (if_pos (decide_eq_true h))

theorem State.drawn_mem (s : State) (x y : Reg) (n : Nat) : (s.drawn x y n).mem = s.mem := rfl

theorem State.drawn_index (s : State) (x y : Reg) (n : Nat) : (s.drawn x y n).index = s.index := rfl

theorem State.cell_drawn (s : State) (x y : Reg) {n : Nat} (hn : n ≤ 32) (px : Fin 64) (py : Fin 32) :
    Framebuffer.cell (s.drawn x y n).fb px py = xor (Framebuffer.cell s.fb px py) (spriteCovers s x y n px py) :=
  s.cell_drawing x y hn px py

theorem State.reg_drawn_ne (s : State) (x y : Reg) (n : Nat) {r : Reg} (h : r ≠ 15) :
    (s.drawn x y n).reg r = s.reg r := by
  rw [State.drawn, State.reg_setReg_ne _ _ _ _ h, State.reg_setFb]

theorem flagByte_eq_one_iff (b : Bool) : flagByte b = 1 ↔ b = true := by
  cases b <;> decide

/-- The flag of a draw, on the screen and the sprite before it. -/
theorem State.reg_drawn_flag_iff (s : State) (x y : Reg) {n : Nat} (hn : n ≤ 32) :
    (s.drawn x y n).reg 15 = 1 ↔
      ∃ px py, Framebuffer.cell s.fb px py = true ∧ spriteCovers s x y n px py = true := by
  rw [State.drawn, State.reg_setReg_self, flagByte_eq_one_iff, s.collided_drawing_iff x y hn]

/-- A draw leaves everything its own sprite depends on, unless it takes a coordinate from the flag register. -/
theorem spriteCovers_drawn (s : State) {x y : Reg} (hx : x ≠ 15) (hy : y ≠ 15) (n : Nat) :
    spriteCovers (s.drawn x y n) x y n = spriteCovers s x y n :=
  spriteCovers_congr (s.drawn_mem x y n) (s.drawn_index x y n) (s.reg_drawn_ne x y n hx) (s.reg_drawn_ne x y n hy) n

/-- Settles O47: the second draw XORs the same image, so every cell returns, and the cells it finds lit under a set bit are the
ones that were dark there before the first draw. -/
theorem drawingTwiceRestoresTheScreen : Obligations.DrawingTwiceRestoresTheScreen := by
  intro x y n s hn hx hy hrange
  have hn32 : n ≤ 32 := by omega
  have himage := spriteCovers_drawn s hx hy n
  have hflag : ((s.drawn x y n).drawn x y n).reg 15 = 1 ↔
      ∃ px py, Framebuffer.cell s.fb px py = false ∧ spriteCovers s x y n px py = true := by
    rw [State.reg_drawn_flag_iff _ x y hn32, himage]
    refine exists_congr fun px => exists_congr fun py => and_congr_left fun hcov => ?_
    rw [State.cell_drawn s x y hn32, hcov, Bool.xor_true, Bool.not_eq_true']
  refine ⟨_, _, exec_draw x y n s hrange, exec_draw x y n _ hrange, ?_, hflag, ?_⟩
  · intro px py
    rw [State.cell_drawn _ x y hn32, himage, State.cell_drawn s x y hn32, Bool.xor_assoc, Bool.xor_self, Bool.xor_false]
  · intro hdark
    rw [hflag, ← exists_spriteCovers_iff s x y hn32]
    exact exists_congr fun px => exists_congr fun py => and_iff_right_of_imp (hdark px py)

end Sys2Proof.Machine
end

section
/-! PROOFS. The obligations of 43_display.md. -/

namespace Sys2Proof.Machine

theorem exec_clearScreen (s : State) : exec .clearScreen s = .next (s.setFb Framebuffer.clear) := rfl

/-- Settles O45: clear-screen only replaces the framebuffer, by the one whose cells are all 0. -/
theorem clearScreenClearsEveryCell : Obligations.ClearScreenClearsEveryCell := by
  intro s
  refine ⟨_, exec_clearScreen s, fun x y => ?_, s.unchangedBut_setFb _⟩
  rw [State.setFb_fb]
  exact Framebuffer.cell_clear x y

end Sys2Proof.Machine
end

section
/-! PROOFS. The obligations of 44_input_timers.md. -/

namespace Sys2Proof.Machine

/-! ### A tick (44_input_timers.md R169) -/

theorem step_of_tick {s : State} (hrun : s.run = .running ∨ ∃ x, s.run = .awaitKey x) (ha : s.input.agent = .tick) :
    step s = .next s.takeInput.tick := by
  rcases hrun with hr | ⟨x, hr⟩
  · simp only [step, hr, stepRunning, ha]
  · simp only [step, hr, stepAwait, ha]

/-- Counting down by one, stopping at 0, is subtraction of natural numbers. -/
theorem toNat_countDown (v : Byte) : (if v = 0 then v else v - 1).toNat = v.toNat - 1 := by
  split
  · next h => simp [h]
  · next h => bv_omega

theorem State.toNat_tick_dt (s : State) : s.tick.dt.toNat = s.dt.toNat - 1 := toNat_countDown s.dt

theorem State.toNat_tick_st (s : State) : s.tick.st.toNat = s.st.toNat - 1 := toNat_countDown s.st

theorem State.tick_tone_eq_and (s : State) : s.tick.tone = (s.tone && decide (s.st.toNat ≠ 1)) := by
  have hone : s.st.toNat = 1 ↔ s.st = 1 := BitVec.toNat_inj (y := (1 : Byte))
  rw [State.tick_tone]
  by_cases h : s.st = 1
  · rw [if_pos h, decide_eq_false (not_not_intro (hone.mpr h)), Bool.and_false]
  · rw [if_neg h, decide_eq_true (mt hone.mp h), Bool.and_true]

/-- Settles O13: the step is the tick of the state that took the input, and taking it touches no timer. -/
theorem tickCountsDown : Obligations.TickCountsDown := by
  intro s hrun ha
  refine ⟨_, step_of_tick hrun ha, ?_, ?_, ?_, ?_⟩
  · rw [State.toNat_tick_dt, State.takeInput_dt]
  · rw [State.toNat_tick_st, State.takeInput_st]
  · rw [State.tick_tone_eq_and, State.takeInput_tone, State.takeInput_st]
  · exact (s.unchangedBut_takeInput.mono (by simp)).trans (s.takeInput.unchangedBut_tick.mono (by simp))

/-! ### The timer forms -/

theorem exec_loadFromDelayTimer (x : Reg) (s : State) : exec (.loadFromDelayTimer x) s = .next (s.setReg x s.dt) := rfl

theorem exec_storeToDelayTimer (x : Reg) (s : State) : exec (.storeToDelayTimer x) s = .next (s.setDt (s.reg x)) := rfl

theorem exec_storeToSoundTimer (x : Reg) (s : State) : exec (.storeToSoundTimer x) s = .next (s.storeSound (s.reg x)) := rfl

/-- Settles O49: one form is a register write of `dt`, the other a write of `dt` from the register. -/
theorem delayTimerMoves : Obligations.DelayTimerMoves := fun x s =>
  ⟨⟨_, exec_loadFromDelayTimer x s, s.reg_setReg_self x _, fun r hr => s.reg_setReg_ne x r _ hr, s.unchangedBut_setReg x _⟩,
    ⟨_, exec_storeToDelayTimer x s, s.setDt_dt _, s.unchangedBut_setDt _⟩⟩

/-- Settles O50: the tone after the store is the tone before it or a nonzero value stored. -/
theorem soundStoreStartsTheTone : Obligations.SoundStoreStartsTheTone := by
  intro x s
  refine ⟨_, exec_storeToSoundTimer x s, s.storeSound_st _, ?_, ?_, s.unchangedBut_storeSound _⟩
  · intro hnonzero
    rw [State.storeSound_tone, decide_eq_true hnonzero, Bool.or_true]
  · intro hzero
    rw [State.storeSound_tone, hzero, decide_eq_false (not_not_intro rfl), Bool.or_false]

/-! ### What changes a timer -/

/-- The parts that a slot can change without an instruction: all that an agent can, but those of the tick. -/
def partsOfSlots : List Component := [.regs, .pc, .run, .keys, .waitBase, .rand, .agenda, .inputIndex]

/-- A part that no slot changes by itself changes only by a tick or by a form which writes it. -/
theorem tick_or_executes_of_changed {s t : State} {c : Component} (h : step s = .next t) (hc : c ∉ partsOfSlots)
    (hne : ¬ c.Same s t) :
    (s.input.agent = .tick ∧ t = s.takeInput.tick) ∨ ∃ i, Executes s i ∧ c ∈ partsWritten i := by
  have hslot {u : State} (hframe : UnchangedBut partsOfSlots s u) : c.Same s u := hframe c hc
  rcases step_next_cases s t h with ⟨_, ha, ht⟩ | ⟨_, _, _, rfl⟩ | ⟨_, _, _, _, _, rfl⟩ | ⟨i, hi, hexec⟩ | ⟨x, _, _, rfl⟩
  case inl => exact .inl ⟨ha, ht⟩
  case inr.inl | inr.inr.inl => exact absurd (hslot (by apply UnchangedBut.of_fields <;> simp [partsOfSlots])) hne
  case inr.inr.inr.inl =>
    refine .inr ⟨i, hi, ?_⟩
    by_contra hout
    have hadvanced : UnchangedBut partsOfSlots s (s.takeInput.present s.input).advance := by
      apply UnchangedBut.of_fields <;> simp [partsOfSlots]
    have hboth : UnchangedBut (partsOfSlots ++ partsWritten i) s t :=
      (hadvanced.mono (List.subset_append_left _ _)).trans
        ((unchangedBut_of_exec hexec).mono (List.subset_append_right _ _))
    exact hne (hboth c (by simp [hc, hout]))
  case inr.inr.inr.inr =>
    exact absurd (hslot ((s.unchangedBut_takeInput.mono (by simp [partsOfSlots])).trans
      ((unchangedBut_waitSlot x s.input s.takeInput).mono (by simp [partsOfSlots])))) hne

theorem dt_mem_partsWritten_iff (i : Instr) : .dt ∈ partsWritten i ↔ ∃ x, i = .storeToDelayTimer x := by
  cases i <;> simp [partsWritten]

theorem st_mem_partsWritten_iff (i : Instr) : .st ∈ partsWritten i ↔ ∃ x, i = .storeToSoundTimer x := by
  cases i <;> simp [partsWritten]

theorem tone_mem_partsWritten_iff (i : Instr) : .tone ∈ partsWritten i ↔ ∃ x, i = .storeToSoundTimer x := by
  cases i <;> simp [partsWritten]

theorem policy_notMem_partsWritten (i : Instr) : .policy ∉ partsWritten i := by
  cases i <;> simp [partsWritten]

/-- A part with one family of forms that write it, one form for each register. -/
theorem tick_or_store_of_changed {s t : State} {c : Component} {form : Reg → Instr} (h : step s = .next t)
    (hc : c ∉ partsOfSlots) (hform : ∀ i, c ∈ partsWritten i ↔ ∃ x, i = form x) (hne : ¬ c.Same s t) :
    (s.input.agent = .tick ∧ t = s.takeInput.tick) ∨ ∃ x, Executes s (form x) := by
  rcases tick_or_executes_of_changed h hc hne with htick | ⟨i, hi, hmem⟩
  · exact .inl htick
  · obtain ⟨x, rfl⟩ := (hform i).mp hmem
    exact .inr ⟨x, hi⟩

/-- A sound store never stops the tone (44_input_timers.md R170). -/
theorem State.storeSound_tone_of_ne (s : State) (v : Byte) (h : (s.storeSound v).tone ≠ s.tone) :
    (s.storeSound v).tone = true := by
  cases htone : s.tone with
  | true => rw [State.storeSound_tone, htone, Bool.true_or]
  | false => exact Bool.eq_true_of_not_eq_false (htone ▸ h)

/-- A tone that changes was stopped by the tick that takes `st` from 1 to 0, or started by a sound store. -/
theorem tone_changed_cases {s t : State} (h : step s = .next t) (hne : t.tone ≠ s.tone) :
    (s.input.agent = .tick ∧ s.st = 1 ∧ t.tone = false) ∨ (∃ x, Executes s (.storeToSoundTimer x)) ∧ t.tone = true := by
  rcases tick_or_store_of_changed h (c := .tone) (by decide) tone_mem_partsWritten_iff hne with ⟨ha, rfl⟩ | ⟨x, hi⟩
  · rw [State.tick_tone, State.takeInput_st, State.takeInput_tone] at hne ⊢
    by_cases hst : s.st = 1
    · exact .inl ⟨ha, hst, if_pos hst⟩
    · exact absurd (if_neg hst) hne
  · rw [step_of_executes s _ hi, exec_storeToSoundTimer] at h
    cases h
    exact .inr ⟨⟨x, hi⟩, State.storeSound_tone_of_ne _ _ (hne.trans_eq (by simp))⟩

/-- Settles O59: a timer is no part that a slot changes by itself, so a tick changed it or the step executed a form that writes
it; `tone_changed_cases` says which of the two stops the tone and which starts it; no form writes the policy. -/
theorem timersChangeOnlyByTickOrStore : Obligations.TimersChangeOnlyByTickOrStore := by
  intro s t h
  refine ⟨fun hne => ?_, fun hne => ?_, fun hoff hon => ?_, fun hon hoff => ?_, ?_⟩
  · exact (tick_or_store_of_changed h (c := .dt) (by decide) dt_mem_partsWritten_iff hne).imp_left And.left
  · exact (tick_or_store_of_changed h (c := .st) (by decide) st_mem_partsWritten_iff hne).imp_left And.left
  · rcases tone_changed_cases h (by simp [hoff, hon]) with ⟨_, _, hstopped⟩ | ⟨hstore, _⟩
    · exact absurd (hon.symm.trans hstopped) (by decide)
    · exact hstore
  · rcases tone_changed_cases h (by simp [hoff, hon]) with ⟨ha, hst, _⟩ | ⟨_, hstarted⟩
    · exact ⟨ha, hst⟩
    · exact absurd (hoff.symm.trans hstarted) (by decide)
  · by_contra hne
    obtain ⟨i, _, hmem⟩ := executes_of_changed h (c := .policy) (by decide) hne
    exact policy_notMem_partsWritten i hmem

end Sys2Proof.Machine
end

section
/-! PROOFS. The round trips of 30_encoding.md and the opcode map. -/

namespace Sys2Proof.Machine

/-! ### A word is put together from its fields (30_encoding.md R72) -/

theorem formatNNN_of_fields {w : Word} {g : BitVec 4} (hg : (fieldG w).toNat = g.toNat) :
    formatNNN g (fieldNNN w) = w := by
  rw [← BitVec.eq_of_toNat_eq hg, formatNNN_fields]

theorem formatXNN_of_fields {w : Word} {g : BitVec 4} {nn : Byte} (hg : (fieldG w).toNat = g.toNat)
    (hnn : (fieldNN w).toNat = nn.toNat) : formatXNN g (fieldX w) nn = w := by
  rw [← BitVec.eq_of_toNat_eq hg, ← BitVec.eq_of_toNat_eq hnn, formatXNN_fields]

theorem formatXYN_of_fields {w : Word} {g n : BitVec 4} (hg : (fieldG w).toNat = g.toNat)
    (hn : (fieldN w).toNat = n.toNat) : formatXYN g (fieldX w) (fieldY w) n = w := by
  rw [← BitVec.eq_of_toNat_eq hg, ← BitVec.eq_of_toNat_eq hn, formatXYN_fields]

/-! ### Decode of encode (30_encoding.md R75) -/

/-- Settles O1: the fields of the encoded word are the ones it was put together from, and on them the decoder takes the arm of
the form. -/
theorem decodeInvertsEncode : Obligations.DecodeInvertsEncode := by
  intro i hwf
  cases i with
  | clearScreen | ret => rfl
  | jump _ | call _ | loadIndex _ | jumpPlusV0 _ => simp [encode, decode]
  | skipEqConst _ _ | skipNeConst _ _ | loadConst _ _ | addConst _ _ | randomMasked _ _ => simp [encode, decode]
  | skipEqReg _ _ | skipNeReg _ _ => simp [encode, decode]
  | copy _ _ | bitOr _ _ | bitAnd _ _ | bitXor _ _ | addWithCarry _ _ | subWithBorrow _ _ | shiftRight _ _
  | subReverseWithBorrow _ _ | shiftLeft _ _ => simp [encode, decode, decodeArith]
  | draw x y n =>
    have hn : n < 16 := of_decide_eq_true hwf
    simp [encode, decode, Nat.mod_eq_of_lt hn]
  | skipIfKeyDown _ | skipIfKeyUp _ => simp [encode, decode, decodeKeySkip]
  | loadFromDelayTimer _ | waitForKey _ | storeToDelayTimer _ | storeToSoundTimer _ | addIndexFromReg _
  | loadIndexFont _ | storeBcd _ | storeRegisters _ | loadRegisters _ => simp [encode, decode, decodeMisc]

/-! ### Encode of decode (30_encoding.md R74) -/

/-- What `DecodedWordIsItsEncoding` claims of one word. -/
def IsEncodingOf (w : Word) (i : Instr) : Prop := i.wellFormed = true ∧ encode i = w

theorem isEncodingOf_decodeArith {w : Word} {i : Instr} (hg : (fieldG w).toNat = 0x8) (h : decodeArith w = .ok i) :
    IsEncodingOf w i := by
  unfold decodeArith at h
  split at h <;> cases h <;> exact ⟨rfl, formatXYN_of_fields hg ‹_›⟩

theorem isEncodingOf_decodeKeySkip {w : Word} {i : Instr} (hg : (fieldG w).toNat = 0xE) (h : decodeKeySkip w = .ok i) :
    IsEncodingOf w i := by
  unfold decodeKeySkip at h
  split at h <;> cases h <;> exact ⟨rfl, formatXNN_of_fields hg ‹_›⟩

theorem isEncodingOf_decodeMisc {w : Word} {i : Instr} (hg : (fieldG w).toNat = 0xF) (h : decodeMisc w = .ok i) :
    IsEncodingOf w i := by
  unfold decodeMisc at h
  split at h <;> cases h <;> exact ⟨rfl, formatXNN_of_fields hg ‹_›⟩

theorem isEncodingOf_decode {w : Word} {i : Instr} (h : decode w = .ok i) : IsEncodingOf w i := by
  unfold decode at h
  split at h
  case h_1 =>
    split at h
    · next hw => cases h; exact ⟨rfl, hw.symm⟩
    · split at h
      · next hw => cases h; exact ⟨rfl, hw.symm⟩
      · cases h
  case h_2 hg | h_3 hg | h_11 hg | h_12 hg => cases h; exact ⟨rfl, formatNNN_of_fields hg⟩
  case h_4 hg | h_5 hg | h_7 hg | h_8 hg | h_13 hg => cases h; exact ⟨rfl, formatXNN_of_fields hg rfl⟩
  case h_6 hg | h_10 hg =>
    split at h
    · next hn => cases h; exact ⟨rfl, formatXYN_of_fields hg (congrArg BitVec.toNat hn)⟩
    · cases h
  case h_9 hg => exact isEncodingOf_decodeArith hg h
  case h_14 hg =>
    cases h
    exact ⟨decide_eq_true (fieldN w).isLt, formatXYN_of_fields hg (by simp)⟩
  case h_15 hg => exact isEncodingOf_decodeKeySkip hg h
  case h_16 hg => exact isEncodingOf_decodeMisc hg h
  case h_17 => cases h

/-- Settles O2: in every arm of the decoder the group and the sub-opcode it matched, with the operand fields it read, are the
fields the encoder puts together again. -/
theorem decodedWordIsItsEncoding : Obligations.DecodedWordIsItsEncoding := fun _ _ h => isEncodingOf_decode h

/-! ### The opcode map (30_encoding.md R76) -/

theorem encodeRow (i : Instr) : Laws.EncodeRow.Statement i := by
  cases i with
  | clearScreen => exact Laws.EncodeRow.clearScreen
  | ret => exact Laws.EncodeRow.ret
  | jump nnn => exact Laws.EncodeRow.jump nnn
  | call nnn => exact Laws.EncodeRow.call nnn
  | skipEqConst x nn => exact Laws.EncodeRow.skipEqConst x nn
  | skipNeConst x nn => exact Laws.EncodeRow.skipNeConst x nn
  | skipEqReg x y => exact Laws.EncodeRow.skipEqReg x y
  | skipNeReg x y => exact Laws.EncodeRow.skipNeReg x y
  | loadConst x nn => exact Laws.EncodeRow.loadConst x nn
  | addConst x nn => exact Laws.EncodeRow.addConst x nn
  | copy x y => exact Laws.EncodeRow.copy x y
  | bitOr x y => exact Laws.EncodeRow.bitOr x y
  | bitAnd x y => exact Laws.EncodeRow.bitAnd x y
  | bitXor x y => exact Laws.EncodeRow.bitXor x y
  | addWithCarry x y => exact Laws.EncodeRow.addWithCarry x y
  | subWithBorrow x y => exact Laws.EncodeRow.subWithBorrow x y
  | shiftRight x y => exact Laws.EncodeRow.shiftRight x y
  | subReverseWithBorrow x y => exact Laws.EncodeRow.subReverseWithBorrow x y
  | shiftLeft x y => exact Laws.EncodeRow.shiftLeft x y
  | loadIndex nnn => exact Laws.EncodeRow.loadIndex nnn
  | jumpPlusV0 nnn => exact Laws.EncodeRow.jumpPlusV0 nnn
  | randomMasked x nn => exact Laws.EncodeRow.randomMasked x nn
  | draw x y n => exact Laws.EncodeRow.draw x y n
  | skipIfKeyDown x => exact Laws.EncodeRow.skipIfKeyDown x
  | skipIfKeyUp x => exact Laws.EncodeRow.skipIfKeyUp x
  | loadFromDelayTimer x => exact Laws.EncodeRow.loadFromDelayTimer x
  | waitForKey x => exact Laws.EncodeRow.waitForKey x
  | storeToDelayTimer x => exact Laws.EncodeRow.storeToDelayTimer x
  | storeToSoundTimer x => exact Laws.EncodeRow.storeToSoundTimer x
  | addIndexFromReg x => exact Laws.EncodeRow.addIndexFromReg x
  | loadIndexFont x => exact Laws.EncodeRow.loadIndexFont x
  | storeBcd x => exact Laws.EncodeRow.storeBcd x
  | storeRegisters x => exact Laws.EncodeRow.storeRegisters x
  | loadRegisters x => exact Laws.EncodeRow.loadRegisters x

/-- A mnemonic names one row. -/
theorem opcodeRow_unique {a b : OpcodeRow} (ha : a ∈ opcodeTable) (hb : b ∈ opcodeTable) (h : a.mnemonic = b.mnemonic) :
    a = b := by
  have hnodup : (opcodeTable.map OpcodeRow.mnemonic).Nodup := by decide
  exact List.inj_on_of_nodup_map hnodup ha hb h

/-- A word of group `g`, by the mask of the whole group. -/
theorem formatNNN_of_mask {w : Word} {g : BitVec 4} (h : w &&& 0xF000 = formatNNN g 0) : formatNNN g (fieldNNN w) = w := by
  rw [← formatNNN_fields w, mask_formatNNN] at h
  have hg : fieldG w = g := by simpa using congrArg fieldG h
  exact formatNNN_of_fields (congrArg BitVec.toNat hg)

theorem formatXNN_of_mask {w : Word} {g : BitVec 4} (h : w &&& 0xF000 = formatNNN g 0) :
    formatXNN g (fieldX w) (fieldNN w) = w := by
  have hg : fieldG w = g := by simpa using congrArg fieldG (formatNNN_of_mask h).symm
  exact formatXNN_of_fields (congrArg BitVec.toNat hg) rfl

theorem formatXYN_of_groupMask {w : Word} {g : BitVec 4} (h : w &&& 0xF000 = formatNNN g 0) :
    formatXYN g (fieldX w) (fieldY w) (fieldN w) = w := by
  have hg : fieldG w = g := by simpa using congrArg fieldG (formatNNN_of_mask h).symm
  exact formatXYN_of_fields (congrArg BitVec.toNat hg) rfl

/-- A word of group `g` whose sub-opcode is the byte `nn`, by their mask. -/
theorem formatXNN_of_subMask {w : Word} {g : BitVec 4} {nn : Byte} (h : w &&& 0xF0FF = formatXNN g 0 nn) :
    formatXNN g (fieldX w) nn = w := by
  rw [← formatXNN_fields w, mask_formatXSS] at h
  have hg : fieldG w = g := by simpa using congrArg fieldG h
  have hnn : fieldNN w = nn := by simpa using congrArg fieldNN h
  exact formatXNN_of_fields (congrArg BitVec.toNat hg) (congrArg BitVec.toNat hnn)

/-- A word of group `g` whose sub-opcode is the nibble `n`, by their mask. -/
theorem formatXYN_of_subMask {w : Word} {g n : BitVec 4} (h : w &&& 0xF00F = formatXYN g 0 0 n) :
    formatXYN g (fieldX w) (fieldY w) n = w := by
  rw [← formatXYN_fields w, mask_formatXYN] at h
  have hg : fieldG w = g := by simpa using congrArg fieldG h
  have hn : fieldN w = n := by simpa using congrArg fieldN h
  exact formatXYN_of_fields (congrArg BitVec.toNat hg) (congrArg BitVec.toNat hn)

/-- The word is the encoding of a form with that mnemonic. -/
def EncodesFormNamed (w : Word) (name : String) : Prop :=
  ∃ i : Instr, i.wellFormed = true ∧ encode i = w ∧ i.mnemonic = name

theorem encodesFormNamed_of_mask (w : Word) :
    ∀ row ∈ opcodeTable, w &&& row.mask = row.matchWord → EncodesFormNamed w row.mnemonic := by
  have hall : w &&& 0xFFFF = w := BitVec.and_allOnes
  simp only [opcodeTable, opcodeRowsControl, opcodeRowsArith, opcodeRowsIndex, opcodeRowsMisc, List.forall_mem_append,
    List.forall_mem_cons, List.not_mem_nil, false_imp_iff, implies_true, and_true]
  refine ⟨⟨⟨⟨?_, ?_, ?_, ?_, ?_, ?_, ?_, ?_, ?_, ?_⟩, ?_, ?_, ?_, ?_, ?_, ?_, ?_, ?_, ?_⟩, ?_, ?_, ?_, ?_, ?_, ?_⟩,
    ?_, ?_, ?_, ?_, ?_, ?_, ?_, ?_, ?_⟩
  all_goals intro h
  · exact ⟨.clearScreen, rfl, h.symm.trans hall, rfl⟩
  · exact ⟨.ret, rfl, h.symm.trans hall, rfl⟩
  · exact ⟨.jump _, rfl, formatNNN_of_mask h, rfl⟩
  · exact ⟨.call _, rfl, formatNNN_of_mask h, rfl⟩
  · exact ⟨.skipEqConst _ _, rfl, formatXNN_of_mask h, rfl⟩
  · exact ⟨.skipNeConst _ _, rfl, formatXNN_of_mask h, rfl⟩
  · exact ⟨.skipEqReg _ _, rfl, formatXYN_of_subMask h, rfl⟩
  · exact ⟨.skipNeReg _ _, rfl, formatXYN_of_subMask h, rfl⟩
  · exact ⟨.loadConst _ _, rfl, formatXNN_of_mask h, rfl⟩
  · exact ⟨.addConst _ _, rfl, formatXNN_of_mask h, rfl⟩
  · exact ⟨.copy _ _, rfl, formatXYN_of_subMask h, rfl⟩
  · exact ⟨.bitOr _ _, rfl, formatXYN_of_subMask h, rfl⟩
  · exact ⟨.bitAnd _ _, rfl, formatXYN_of_subMask h, rfl⟩
  · exact ⟨.bitXor _ _, rfl, formatXYN_of_subMask h, rfl⟩
  · exact ⟨.addWithCarry _ _, rfl, formatXYN_of_subMask h, rfl⟩
  · exact ⟨.subWithBorrow _ _, rfl, formatXYN_of_subMask h, rfl⟩
  · exact ⟨.shiftRight _ _, rfl, formatXYN_of_subMask h, rfl⟩
  · exact ⟨.subReverseWithBorrow _ _, rfl, formatXYN_of_subMask h, rfl⟩
  · exact ⟨.shiftLeft _ _, rfl, formatXYN_of_subMask h, rfl⟩
  · exact ⟨.loadIndex _, rfl, formatNNN_of_mask h, rfl⟩
  · exact ⟨.jumpPlusV0 _, rfl, formatNNN_of_mask h, rfl⟩
  · exact ⟨.randomMasked _ _, rfl, formatXNN_of_mask h, rfl⟩
  · refine ⟨.draw (fieldX w) (fieldY w) (fieldN w).toNat, decide_eq_true (fieldN w).isLt, ?_, rfl⟩
    rw [encode, BitVec.ofNat_toNat, BitVec.setWidth_eq]
    exact formatXYN_of_groupMask h
  · exact ⟨.skipIfKeyDown _, rfl, formatXNN_of_subMask h, rfl⟩
  · exact ⟨.skipIfKeyUp _, rfl, formatXNN_of_subMask h, rfl⟩
  · exact ⟨.loadFromDelayTimer _, rfl, formatXNN_of_subMask h, rfl⟩
  · exact ⟨.waitForKey _, rfl, formatXNN_of_subMask h, rfl⟩
  · exact ⟨.storeToDelayTimer _, rfl, formatXNN_of_subMask h, rfl⟩
  · exact ⟨.storeToSoundTimer _, rfl, formatXNN_of_subMask h, rfl⟩
  · exact ⟨.addIndexFromReg _, rfl, formatXNN_of_subMask h, rfl⟩
  · exact ⟨.loadIndexFont _, rfl, formatXNN_of_subMask h, rfl⟩
  · exact ⟨.storeBcd _, rfl, formatXNN_of_subMask h, rfl⟩
  · exact ⟨.storeRegisters _, rfl, formatXNN_of_subMask h, rfl⟩
  · exact ⟨.loadRegisters _, rfl, formatXNN_of_subMask h, rfl⟩

/-- Settles O3: a decoded word is an encoding, whose row is the only one of its name; a word that a row matches is the encoding
of a form of that name, which the decoder gives back. -/
theorem decoderAgreesWithOpcodeMap : Obligations.DecoderAgreesWithOpcodeMap := by
  intro w row hrow
  constructor
  · rintro ⟨i, hdecode, hname⟩
    obtain ⟨_, rfl⟩ := isEncodingOf_decode hdecode
    obtain ⟨row', hrow', hname', hmatch⟩ := encodeRow i
    rwa [opcodeRow_unique hrow hrow' (hname.symm.trans hname'.symm)]
  · intro hmatch
    obtain ⟨i, hwf, rfl, hname⟩ := encodesFormNamed_of_mask w row hrow hmatch
    exact ⟨i, decodeInvertsEncode i hwf, hname⟩

/-! ### The words that are no form (30_encoding.md R82) -/

theorem decodeArith_error_iff (w : Word) :
    decodeArith w = .error .invalidOpcode ↔ w.toNat % 16 ∈ [0x8, 0x9, 0xA, 0xB, 0xC, 0xD, 0xF] := by
  unfold decodeArith
  rw [toNat_fieldN]
  split
  case h_10 =>
    simp only [imp_false] at *
    simp
    omega
  all_goals simp [*]

theorem decodeKeySkip_error_iff (w : Word) :
    decodeKeySkip w = .error .invalidOpcode ↔ w.toNat % 256 ∉ [0x9E, 0xA1] := by
  unfold decodeKeySkip
  rw [toNat_fieldNN]
  split
  case h_3 =>
    simp only [imp_false] at *
    simp [*]
  all_goals simp [*]

theorem decodeMisc_error_iff (w : Word) :
    decodeMisc w = .error .invalidOpcode ↔
      w.toNat % 256 ∉ [0x07, 0x0A, 0x15, 0x18, 0x1E, 0x29, 0x33, 0x55, 0x65] := by
  unfold decodeMisc
  rw [toNat_fieldNN]
  split
  case h_10 =>
    simp only [imp_false] at *
    simp [*]
  all_goals simp [*]

/-- Settles O4: group by group, with the second-level decoders' lists for the groups that have one. -/
theorem invalidWordsAreTheListedOnes : Obligations.InvalidWordsAreTheListedOnes := by
  intro w
  have hword : w.toNat < 65536 := w.isLt
  have hN : fieldN w = 0 ↔ w.toNat % 16 = 0 := by rw [← BitVec.toNat_inj, toNat_fieldN]; rfl
  have hE0 : w = 0x00E0 ↔ w.toNat = 0x00E0 := BitVec.toNat_inj.symm
  have hEE : w = 0x00EE ↔ w.toNat = 0x00EE := BitVec.toNat_inj.symm
  unfold decode
  rw [toNat_fieldG]
  split
  case h_1 hg =>
    simp only [hg, hE0, hEE]
    split
    · next h => simp [h]
    · next h =>
      split
      · next h' => simp [h']
      · next h' => simp [h, h']
  case h_6 hg | h_10 hg =>
    simp only [hg, hN]
    split
    · next h => simp [h]
    · next h => simp [h]
  case h_9 hg => rw [decodeArith_error_iff, hg]; simp
  case h_15 hg => rw [decodeKeySkip_error_iff, hg]; simp
  case h_16 hg => rw [decodeMisc_error_iff, hg]; simp
  case h_17 =>
    simp only [imp_false] at *
    omega
  all_goals simp [*]

/-! ### Words and byte streams -/

/-- Settles O6: each word but the last is the encoding of the instruction beside it, and the last has sub-opcode 9 of group 8. -/
theorem wordsDecodeToTheirForms : Obligations.WordsDecodeToTheirForms :=
  ⟨decodeInvertsEncode .clearScreen rfl, decodeInvertsEncode (.loadConst 0 0x12) rfl,
    decodeInvertsEncode (.call 0x20A) rfl, decodeInvertsEncode (.jump 0x234) rfl,
    decodeInvertsEncode (.shiftRight 1 2) rfl, decodeInvertsEncode (.subReverseWithBorrow 1 2) rfl,
    decodeInvertsEncode (.draw 1 2 10) rfl, decodeInvertsEncode (.waitForKey 3) rfl,
    (invalidWordsAreTheListedOnes 0x8F09).mpr (.inr (.inr (.inl (by decide))))⟩

/-- Settles O7: the two bytes put together again are the encoded word. -/
theorem byteStreamDecodesInOrder : Obligations.ByteStreamDecodesInOrder := by
  intro i rest hwf
  simp only [encodeBytes, List.cons_append, List.nil_append, decodeBytes, wordOfBytes_bytes, decodeInvertsEncode i hwf]

end Sys2Proof.Machine
end

section
/-! PROOFS. The invariant, reset and load (10_state.md R27, R38; 70_reset_and_hazards.md R210 to R212). -/

namespace Sys2Proof.Machine

/-! ### Every update of the state keeps the invariant -/

/-- The invariant reads eight fields. -/
theorem State.Inv.congr {s t : State} (h : s.Inv) (mem : t.mem = s.mem) (pc : t.pc = s.pc) (stack : t.stack = s.stack)
    (st : t.st = s.st) (tone : t.tone = s.tone) (run : t.run = s.run) (waitBase : t.waitBase = s.waitBase)
    (keys : t.keys = s.keys) : t.Inv where
  memory := mem ▸ h.memory
  pcBound := pc ▸ h.pcBound
  stackBound := stack ▸ h.stackBound
  soundIsOn := st ▸ tone ▸ h.soundIsOn
  baseFollows := run ▸ waitBase ▸ keys ▸ h.baseFollows

theorem State.Inv.setReg {s : State} (h : s.Inv) (x : Reg) (v : Byte) : (s.setReg x v).Inv :=
  h.congr rfl rfl rfl rfl rfl rfl rfl rfl

theorem State.Inv.setRegs {s : State} (h : s.Inv) (v : Vector Byte 16) : (s.setRegs v).Inv :=
  h.congr rfl rfl rfl rfl rfl rfl rfl rfl

theorem State.Inv.setIndex {s : State} (h : s.Inv) (v : Word) : (s.setIndex v).Inv := h.congr rfl rfl rfl rfl rfl rfl rfl rfl

theorem State.Inv.setFb {s : State} (h : s.Inv) (f : Framebuffer) : (s.setFb f).Inv := h.congr rfl rfl rfl rfl rfl rfl rfl rfl

theorem State.Inv.setDt {s : State} (h : s.Inv) (v : Byte) : (s.setDt v).Inv := h.congr rfl rfl rfl rfl rfl rfl rfl rfl

theorem State.Inv.takeInput {s : State} (h : s.Inv) : s.takeInput.Inv := by
  apply h.congr <;> simp

theorem State.Inv.setPc {s : State} (h : s.Inv) {v : Word} (hv : v.toNat ≤ 4096) : (s.setPc v).Inv :=
  { h with pcBound := hv }

theorem State.Inv.setMem {s : State} (h : s.Inv) {m : Memory} (hm : Memory.wf m = true) : (s.setMem m).Inv :=
  { h with memory := hm }

/-- A faulted machine awaits no key. -/
theorem State.Inv.raise {s : State} (h : s.Inv) (k : FaultKind) : (s.raise k).Inv :=
  { h with baseFollows := nofun }

/-- A running machine awaits no key, so any sample may be taken. -/
theorem State.Inv.present {s : State} (h : s.Inv) (hrun : s.run = .running) (i : Input) : (s.present i).Inv :=
  { h with baseFollows := fun _ hx => RunState.noConfusion (hrun.symm.trans hx) }

theorem State.Inv.suspend {s : State} (h : s.Inv) (x : Reg) : (s.suspend x).Inv :=
  { h with baseFollows := fun _ _ => rfl }

theorem State.Inv.storeSound {s : State} (h : s.Inv) (v : Byte) : (s.storeSound v).Inv :=
  { h with soundIsOn := fun (hv : v ≠ 0) => by rw [State.storeSound_tone, decide_eq_true hv, Bool.or_true] }

/-- The tick that clears the tone leaves the sound timer at 0. -/
theorem State.Inv.tick {s : State} (h : s.Inv) : s.tick.Inv where
  memory := h.memory
  pcBound := h.pcBound
  stackBound := h.stackBound
  soundIsOn hst := by
    rw [State.tick_st] at hst
    rw [State.tick_tone]
    by_cases h0 : s.st = 0
    · simp [h0] at hst
    · by_cases h1 : s.st = 1
      · simp [h1] at hst
      · rw [if_neg h1]
        exact h.soundIsOn h0
  baseFollows := h.baseFollows

/-- A push writes the entry that the stack pointer names, and no other. -/
theorem State.getElem_stack_pushPc (s : State) (k : Fin 16) :
    s.pushPc.stack[k] = if s.sp.val = k.val then s.pc else s.stack[k] :=
  Vector.getElem_setIfInBounds k.isLt

theorem State.Inv.pushPc {s : State} (h : s.Inv) : s.pushPc.Inv where
  memory := h.memory
  pcBound := h.pcBound
  stackBound k := by
    rw [State.getElem_stack_pushPc]
    split
    · exact h.pcBound
    · exact h.stackBound k
  soundIsOn := h.soundIsOn
  baseFollows := h.baseFollows

/-- The top entry of a stack that is not empty. -/
theorem State.popPc_pc_of_sp (s : State) (k : Fin 16) (hk : s.sp.val = k.val + 1) : s.popPc.pc = s.stack[k] := by
  simp [hk, Vector.getD, k.isLt]

theorem State.Inv.popPc {s : State} (h : s.Inv) (hsp : s.sp.val ≠ 0) : s.popPc.Inv where
  memory := h.memory
  pcBound := by
    have hlt := s.sp.isLt
    rw [s.popPc_pc_of_sp ⟨s.sp.val - 1, by omega⟩ (by simp; omega)]
    exact h.stackBound _
  stackBound := h.stackBound
  soundIsOn := h.soundIsOn
  baseFollows := h.baseFollows

/-! ### Every shared operation keeps the invariant -/

theorem State.Inv.transfer {s : State} (h : s.Inv) (n : Nat) : (s.transfer n).Inv := by
  rcases s.transfer_cases n with ⟨hn, e⟩ | ⟨_, e⟩ <;> rw [e]
  · exact h.setPc (by rw [BitVec.toNat_ofNat]; omega)
  · exact h.raise _

theorem State.Inv.skipIf {s : State} (h : s.Inv) (c : Bool) : (s.skipIf c).Inv := by
  rcases s.skipIf_cases c with ⟨_, e⟩ | ⟨_, hpc, e⟩ | ⟨_, _, e⟩ <;> rw [e]
  · exact h
  · exact h.setPc (by rw [s.pc_add_two (by omega)]; omega)
  · exact h.raise _

theorem State.Inv.skipOnKey {s : State} (h : s.Inv) (x : Reg) (level : Bool) : (s.skipOnKey x level).Inv := by
  rcases s.skipOnKey_cases x level with ⟨_, e⟩ | ⟨_, _, e⟩ <;> rw [e]
  · exact h.raise _
  · exact h.skipIf _

theorem State.Inv.arith {s : State} (h : s.Inv) (x y : Reg) (f : Byte → Byte → Byte) : (s.arith x y f).Inv := by
  rcases s.arith_cases x y f with ⟨_, _, e⟩ | ⟨_, e⟩ <;> rw [e]
  · exact h.raise _
  · exact h.setReg _ _

theorem State.Inv.arithFlag {s : State} (h : s.Inv) (x y : Reg) (f : Byte → Byte → Byte) (flag : Byte → Byte → Bool) :
    (s.arithFlag x y f flag).Inv := by
  rcases s.arithFlag_cases x y f flag with ⟨_, _, e⟩ | ⟨_, e⟩ <;> rw [e]
  · exact h.raise _
  · exact (h.setReg _ _).setReg _ _

theorem State.Inv.storeAtIndex {s : State} (h : s.Inv) (bs : List Byte) : (s.storeAtIndex bs).Inv := by
  rcases s.storeAtIndex_cases bs with ⟨hbound, e⟩ | ⟨_, e⟩ <;> rw [e]
  · exact h.setMem (Memory.wf_writeBytes bs s.mem _ hbound h.memory)
  · exact h.raise _

theorem State.Inv.loadFromIndex {s : State} (h : s.Inv) (x : Reg) : (s.loadFromIndex x).Inv := by
  rcases s.loadFromIndex_cases x with ⟨_, e⟩ | ⟨_, e⟩ <;> rw [e]
  · exact h.setRegs _
  · exact h.raise _

/-- The wait slot that goes on waiting takes its sample as the base; the one that completes awaits no key. -/
theorem State.Inv.waitSlot {s : State} (h : s.Inv) (x : Reg) (i : Input) : (waitSlot x i s).Inv := by
  rcases waitSlot_cases x i s with ⟨_, e⟩ | ⟨_, e⟩ <;> rw [e]
  · exact { h with baseFollows := fun _ _ => rfl }
  · exact { h with baseFollows := nofun }

/-! ### Every form keeps the invariant -/

/-- A 12-bit address loses nothing in 16 bits. -/
theorem toNat_zeroExtend_addr (nnn : Addr12) : (nnn.zeroExtend 16).toNat = nnn.toNat :=
  BitVec.toNat_setWidth_of_le (by decide)

theorem execRet_keeps_inv {s : State} (h : s.Inv) : ∃ t, execRet s = .next t ∧ t.Inv := by
  refine ⟨_, rfl, ?_⟩
  split
  · exact h.raise _
  · next hsp => exact h.popPc hsp

theorem execCall_keeps_inv (nnn : Addr12) {s : State} (h : s.Inv) : ∃ t, execCall nnn s = .next t ∧ t.Inv := by
  refine ⟨_, rfl, ?_⟩
  split
  · exact h.raise _
  · split
    · exact h.raise _
    · have hlt : nnn.toNat < 4096 := nnn.isLt
      refine h.pushPc.setPc ?_
      rw [toNat_zeroExtend_addr]
      omega

theorem execDraw_keeps_inv (x y : Reg) (n : Nat) {s : State} (h : s.Inv) : ∃ t, execDraw x y n s = .next t ∧ t.Inv := by
  refine ⟨_, rfl, ?_⟩
  split
  · exact (h.setFb _).setReg _ _
  · exact h.raise _

theorem execLoadIndexFont_keeps_inv (x : Reg) {s : State} (h : s.Inv) : ∃ t, execLoadIndexFont x s = .next t ∧ t.Inv := by
  refine ⟨_, rfl, ?_⟩
  split
  · split
    · exact h.raise _
    · exact h.setIndex _
  · exact h.raise _

theorem exec_keeps_inv (i : Instr) {s : State} (h : s.Inv) : ∃ t, exec i s = .next t ∧ t.Inv := by
  cases i with
  | clearScreen => exact ⟨_, rfl, h.setFb _⟩
  | draw x y n => exact execDraw_keeps_inv x y n h
  | ret => exact execRet_keeps_inv h
  | call nnn => exact execCall_keeps_inv nnn h
  | jump _ | jumpPlusV0 _ => exact ⟨_, rfl, h.transfer _⟩
  | skipEqConst _ _ | skipNeConst _ _ | skipEqReg _ _ | skipNeReg _ _ => exact ⟨_, rfl, h.skipIf _⟩
  | skipIfKeyDown x | skipIfKeyUp x => exact ⟨_, rfl, h.skipOnKey x _⟩
  | loadConst x _ | addConst x _ | randomMasked x _ | loadFromDelayTimer x => exact ⟨_, rfl, h.setReg x _⟩
  | copy x y | bitOr x y | bitAnd x y | bitXor x y => exact ⟨_, rfl, h.arith x y _⟩
  | addWithCarry x y | subWithBorrow x y | shiftRight x y | subReverseWithBorrow x y | shiftLeft x y =>
    exact ⟨_, rfl, h.arithFlag x y _ _⟩
  | loadIndex _ | addIndexFromReg _ => exact ⟨_, rfl, h.setIndex _⟩
  | loadIndexFont x => exact execLoadIndexFont_keeps_inv x h
  | storeBcd _ | storeRegisters _ => exact ⟨_, rfl, h.storeAtIndex _⟩
  | loadRegisters x => exact ⟨_, rfl, h.loadFromIndex x⟩
  | storeToDelayTimer _ => exact ⟨_, rfl, h.setDt _⟩
  | storeToSoundTimer _ => exact ⟨_, rfl, h.storeSound _⟩
  | waitForKey x => exact ⟨_, rfl, h.suspend x⟩

theorem State.Inv.exec {i : Instr} {s t : State} (h : s.Inv) (hexec : exec i s = .next t) : t.Inv := by
  obtain ⟨u, hu, hinv⟩ := exec_keeps_inv i h
  cases hu.symm.trans hexec
  exact hinv

/-- The state from which the form of a slot is executed; the fetch bound keeps the advanced `pc` at 4096 or below. -/
theorem State.Inv.advanced {s : State} (h : s.Inv) (hrun : s.run = .running) (hpc : s.pc.toNat ≤ 4094) :
    (s.takeInput.present s.input).advance.Inv := by
  refine (h.takeInput.present (by simp [hrun]) _).setPc ?_
  have hadd := s.pc_add_two hpc
  rw [State.present_pc, State.takeInput_pc]
  omega

/-- Settles O23: each of the five ways a step answers is made of updates that keep the invariant. -/
theorem stepKeepsTheInvariant : Obligations.StepKeepsTheInvariant := by
  intro s t h hstep
  rcases step_next_cases s t hstep with
    ⟨_, _, rfl⟩ | ⟨hrun, _, _, rfl⟩ | ⟨_, hrun, _, hpc, _, rfl⟩ | ⟨i, ⟨hrun, _, hpc, _⟩, hexec⟩ | ⟨x, _, _, rfl⟩
  · exact h.takeInput.tick
  · exact (h.takeInput.present (by simp [hrun]) _).raise _
  · exact (h.advanced hrun hpc).raise _
  · exact (h.advanced hrun hpc).exec hexec
  · exact h.takeInput.waitSlot x _

/-! ### Reset -/

/-- The default font as the reset image has it: glyph `d`, row `r`, at `5 d + r` (20_memory.md R56). -/
theorem toNat_resetByte_glyph : ∀ (d : Fin 16) (r : Fin 5), (resetByte (5 * d.val + r.val)).toNat = glyphByte d r := by
  decide

theorem resetByte_of_ge {a : Nat} (h : 80 ≤ a) : resetByte a = 0 := by
  have hlen : fontTable.length = 80 := rfl
  simp only [resetByte, fontBase, Nat.zero_le, if_true, Nat.sub_zero]
  exact List.getD_eq_default _ _ (by omega)

/-- Settles O18: the fields are those of the reset state, and the font bytes are compared with the spec's table one by one. -/
theorem resetLeavesTheSpecifiedState : Obligations.ResetLeavesTheSpecifiedState := by
  refine ⟨fun r => ?_, rfl, rfl, rfl, fun x y => Framebuffer.cell_clear x y, rfl, rfl, rfl, fun k => ?_, rfl,
    toNat_resetByte_glyph, fun a h _ => resetByte_of_ge h, rfl⟩
  · exact Vector.getElem_replicate _
  · exact Vector.getElem_replicate _

/-- Settles O21: memory lists no cell, every stack entry and the sound timer are 0, and the machine runs. -/
theorem invariantHoldsAtReset : Obligations.InvariantHoldsAtReset where
  memory := rfl
  pcBound := by decide
  stackBound k := by
    have hzero : State.reset.stack[k] = 0 := Vector.getElem_replicate _
    simp [hzero]
  soundIsOn h := absurd rfl h
  baseFollows := nofun

/-! ### Load -/

/-- Memory after a load: the font, then the ROM, over the reset image of the empty ROM. -/
def loadedMemory (font : Vector Byte 80) (rom : List Byte) : Memory :=
  Memory.writeBytes (Memory.writeBytes [] fontBase font.toList) progBase rom

theorem State.load_of_le (font : Vector Byte 80) (policy : VfDestPolicy) {rom : List Byte} (h : rom.length ≤ 3584) :
    State.load font policy rom = some { State.reset with mem := loadedMemory font rom, vfDestPolicy := policy } :=
  if_pos h

theorem State.load_of_gt (font : Vector Byte 80) (policy : VfDestPolicy) {rom : List Byte} (h : 3584 < rom.length) :
    State.load font policy rom = none :=
  if_neg (Nat.not_le.mpr h)

theorem State.load_eq_some {font : Vector Byte 80} {policy : VfDestPolicy} {rom : List Byte} {s : State}
    (h : State.load font policy rom = some s) :
    rom.length ≤ 3584 ∧ s = { State.reset with mem := loadedMemory font rom, vfDestPolicy := policy } := by
  rcases Nat.lt_or_ge 3584 rom.length with hgt | hle
  · rw [State.load_of_gt font policy hgt] at h
    cases h
  · rw [State.load_of_le font policy hle] at h
    cases h
    exact ⟨hle, rfl⟩

theorem wf_loadedMemory (font : Vector Byte 80) {rom : List Byte} (h : rom.length ≤ 3584) :
    Memory.wf (loadedMemory font rom) = true := by
  refine Memory.wf_writeBytes rom _ _ ?_ (Memory.wf_writeBytes _ _ _ ?_ rfl)
  · simp only [progBase, memSize]
    omega
  · simp [fontBase, memSize]

/-- The byte at an address after a load (70_reset_and_hazards.md R211). -/
theorem read_loadedMemory (font : Vector Byte 80) (rom : List Byte) (a : Nat) :
    Memory.read (loadedMemory font rom) a =
      if 0x200 ≤ a ∧ a < 0x200 + rom.length then rom.getD (a - 0x200) 0
      else if a < 80 then font.toList.getD a 0 else resetByte a := by
  simp only [loadedMemory, Memory.read_writeBytes, progBase, fontBase, Vector.length_toList, Nat.zero_le, true_and,
    Nat.zero_add, Nat.sub_zero, Memory.read_nil]

/-- Settles O19: the two range writes of a load give the three ranges of the image; above the font the unlisted bytes are 0. -/
theorem loadBuildsTheResetImage : Obligations.LoadBuildsTheResetImage := by
  intro font policy rom hrom
  refine ⟨_, State.load_of_le font policy hrom, fun a _ => ?_⟩
  rw [State.readByte, read_loadedMemory]
  split
  · rfl
  · split
    · rfl
    · next hfont => rw [resetByte_of_ge (Nat.not_lt.mp hfont)]; rfl

/-- Settles O22: the reset state meets the invariant, and a load replaces its memory by a canonical one. -/
theorem invariantHoldsAfterLoad : Obligations.InvariantHoldsAfterLoad := by
  intro font policy rom s h
  obtain ⟨hrom, rfl⟩ := State.load_eq_some h
  exact (invariantHoldsAtReset.setMem (wf_loadedMemory font hrom)).congr rfl rfl rfl rfl rfl rfl rfl rfl

/-- Loading the default font and no ROM lists no cell: every byte written is the reset image's own. -/
theorem loadedMemory_defaultFont {font : Vector Byte 80}
    (hfont : ∀ (d : Fin 16) (r : Fin 5), (font.toList.getD (5 * d.val + r.val) 0).toNat = glyphByte d r) :
    loadedMemory font [] = [] := by
  refine Memory.ext_of_read _ _ (wf_loadedMemory font (Nat.zero_le _)) rfl fun a => ?_
  have hrom : ¬ (0x200 ≤ a ∧ a < 0x200 + ([] : List Byte).length) := by simp
  rw [read_loadedMemory, if_neg hrom, Memory.read_nil]
  split
  · next ha =>
    have hsplit : 5 * (a / 5) + a % 5 = a := Nat.div_add_mod a 5
    have hloaded := hfont ⟨a / 5, by omega⟩ ⟨a % 5, by omega⟩
    have hreset := toNat_resetByte_glyph ⟨a / 5, by omega⟩ ⟨a % 5, by omega⟩
    simp only [hsplit] at hloaded hreset
    exact BitVec.eq_of_toNat_eq (hloaded.trans hreset.symm)
  · rfl

/-- Settles O20: a load is the reset state with another memory and policy, and the default font with no ROM gives the memory
of the reset state. -/
theorem loadIsResetBesidesMemory : Obligations.LoadIsResetBesidesMemory := by
  refine ⟨fun font policy rom => ⟨fun s h => ?_, State.load_of_gt font policy⟩, fun font hfont => ?_⟩
  · obtain ⟨_, rfl⟩ := State.load_eq_some h
    exact ⟨rfl, by apply UnchangedBut.of_fields <;> simp⟩
  · rw [State.load_of_le font .fault (Nat.zero_le _), loadedMemory_defaultFont hfont]
    rfl

end Sys2Proof.Machine
end

section
/-! PROOFS. The steps of the agents: slots, wait slots, ticks, and what only some of them change. -/

namespace Sys2Proof.Machine

/-! ### The instruction slot (10_state.md R45) -/

/-- The state from which a slot executes its form. -/
theorem advanced_eq (s : State) (i : Input) :
    (s.takeInput.present i).advance = { s.takeInput with keys := i.keyLevel, rand := i.rand, pc := s.pc + 2 } := by
  simp only [State.advance, State.setPc, State.present, State.takeInput_pc]

theorem decodeBytes_pair_eq_ok_iff (hi lo : Byte) (i : Instr) :
    decodeBytes [hi, lo] = .ok (i, []) ↔ decode (wordOfBytes hi lo) = .ok i := by
  simp only [decodeBytes]
  cases decode (wordOfBytes hi lo) <;> simp

/-- Settles O8: the two bytes at `pc` are the fetched word, so the slot executes the instruction they decode to. -/
theorem stepRunsTheDecodedInstruction : Obligations.StepRunsTheDecodedInstruction := by
  intro s i hrun ha hpc hbytes
  rw [decodeBytes_pair_eq_ok_iff, ← State.fetchWord_eq_wordOfBytes] at hbytes
  rw [step_of_executes s i ⟨hrun, ha, hpc, hbytes⟩, advanced_eq]

theorem step_of_slot {s : State} (hrun : s.run = .running) (ha : s.input.agent = .slot) :
    step s = instructionSlot s.input s.takeInput := by
  simp only [step, hrun, stepRunning, ha]

theorem step_of_fetchFault {s : State} (hrun : s.run = .running) (ha : s.input.agent = .slot) (hpc : 4094 < s.pc.toNat) :
    step s = .next ((s.takeInput.present s.input).raise .addressOutOfRange) := by
  rw [step_of_slot hrun ha]
  exact if_pos (by simpa [maxFetch] using hpc)

theorem step_of_decodeFault {s : State} {e : DecodeReject} (hrun : s.run = .running) (ha : s.input.agent = .slot)
    (hpc : s.pc.toNat ≤ 4094) (hdecode : decode s.fetchWord = .error e) :
    step s = .next ((s.takeInput.present s.input).advance.raise .invalidOpcode) := by
  have hbound : ¬ s.takeInput.pc.toNat > maxFetch := by simpa [maxFetch] using hpc
  have hfetch : s.takeInput.fetchWord = s.fetchWord := by simp [State.fetchWord]
  rw [step_of_slot hrun ha, instructionSlot, if_neg hbound, dispatch, hfetch, hdecode]

/-- Settles O10: the slot raises the fault from the state with the sample, before the advance. -/
theorem fetchAboveBoundFaults : Obligations.FetchAboveBoundFaults := fun s hrun ha hpc =>
  ⟨_, step_of_fetchFault hrun ha hpc, rfl, by apply UnchangedBut.of_fields <;> simp⟩

/-- Settles O11: the slot raises the fault from the advanced state. -/
theorem unmappedWordFaults : Obligations.UnmappedWordFaults := by
  intro s hrun ha hpc hdecode
  refine ⟨_, step_of_decodeFault hrun ha hpc hdecode, rfl, ?_, by apply UnchangedBut.of_fields <;> simp⟩
  rw [State.raise_pc, State.advance_pc, State.present_pc, State.takeInput_pc, s.pc_add_two hpc]

/-- Settles O12: `step` answers by the run state, and so does the status port. -/
theorem faultedMachineTakesNoStep : Obligations.FaultedMachineTakesNoStep := by
  refine ⟨fun s k h => ?_, fun s k h => ?_, fun s h => ?_⟩
  · simp only [step, h]
  · simp only [State.faultCode, h]
    cases k <;> decide
  · cases hrun : s.run with
    | running | awaitKey _ => simp [State.faultCode, hrun]
    | faulted k => exact absurd hrun (h k)

/-! ### Repeated ticks (44_input_timers.md R171) -/

/-- Settles O14, by induction on the number of ticks: the first of `k + 1` ticks takes one from each timer, and the other `k`
take the rest. -/
theorem repeatedTicksSaturate : Obligations.RepeatedTicksSaturate := by
  intro k
  induction k with
  | zero =>
    intro s
    have hnone : ¬ (0 < s.st.toNat ∧ s.st.toNat ≤ 0) := by omega
    refine ⟨rfl, rfl, ?_, UnchangedBut.refl _ s⟩
    rw [decide_eq_false hnone, Bool.not_false, Bool.and_true]
    rfl
  | succ k ih =>
    intro s
    obtain ⟨hdt, hst, htone, hframe⟩ := ih s.tick
    refine ⟨?_, ?_, ?_, s.unchangedBut_tick.trans hframe⟩
    · rw [ticks, hdt, State.toNat_tick_dt]
      omega
    · rw [ticks, hst, State.toNat_tick_st]
      omega
    · have hpass : ¬ (0 < s.st.toNat ∧ s.st.toNat ≤ k + 1) ↔
          s.st.toNat ≠ 1 ∧ ¬ (0 < s.st.toNat - 1 ∧ s.st.toNat - 1 ≤ k) := by omega
      rw [ticks, htone, State.tick_tone_eq_and, State.toNat_tick_st, Bool.and_assoc, ← decide_not, ← decide_not,
        ← Bool.decide_and, decide_eq_decide.mpr hpass]

/-! ### The wait slot (44_input_timers.md R165) -/

theorem step_of_wait {s : State} {x : Reg} (hrun : s.run = .awaitKey x) (ha : s.input.agent = .slot) :
    step s = .next (waitSlot x s.input s.takeInput) := by
  simp only [step, hrun, stepAwait, ha]

theorem freshKeys_mem_iff (base new : BitVec 16) (k : Key) :
    (freshKeys base new).getLsbD k.val = true ↔ new.getLsbD k.val = true ∧ base.getLsbD k.val = false := by
  rw [getLsbD_freshKeys, Bool.and_eq_true, Bool.not_eq_true']

/-- No key is fresh exactly when every key down was down in the base. -/
theorem freshKeys_eq_zero_iff (base new : BitVec 16) :
    freshKeys base new = 0 ↔ ∀ k : Key, new.getLsbD k.val = true → base.getLsbD k.val = true := by
  simp only [keySet_eq_zero_iff, ← Bool.not_eq_true, freshKeys_mem_iff, not_and, not_not]

/-- A key number fits a register. -/
theorem toNat_keyByte (k : Key) : (BitVec.ofNat 8 k.val).toNat = k.val :=
  Nat.mod_eq_of_lt (by omega)

/-- The key that a completing wait slot reports. -/
def reportedKey (s : State) : Key := arbitrate (freshKeys s.waitBase s.input.keyLevel) s.input.pick

/-- The state after a completing wait slot. -/
def completedWait (x : Reg) (s : State) : State :=
  { s.takeInput.setReg x (BitVec.ofNat 8 (reportedKey s).val) with keys := s.input.keyLevel, run := .running }

theorem waitSlot_takeInput_cases (x : Reg) (s : State) :
    (freshKeys s.waitBase s.input.keyLevel = 0 ∧
      waitSlot x s.input s.takeInput = { s.takeInput with keys := s.input.keyLevel, waitBase := s.input.keyLevel }) ∨
    (freshKeys s.waitBase s.input.keyLevel ≠ 0 ∧ waitSlot x s.input s.takeInput = completedWait x s) := by
  have hcases := waitSlot_cases x s.input s.takeInput
  simp only [State.takeInput_waitBase] at hcases
  exact hcases

/-- Settles O15: no key is fresh, so the sample becomes the base. -/
theorem waitSlotWithoutFreshPress : Obligations.WaitSlotWithoutFreshPress := by
  intro s x hrun ha hheld
  refine ⟨_, step_of_wait hrun ha, ?_⟩
  rcases waitSlot_takeInput_cases x s with ⟨_, e⟩ | ⟨hfresh, _⟩
  · rw [e]
    exact ⟨rfl, rfl, by apply UnchangedBut.of_fields <;> simp⟩
  · exact absurd ((freshKeys_eq_zero_iff _ _).mpr hheld) hfresh

theorem toNat_reg_completedWait (x : Reg) (s : State) : ((completedWait x s).reg x).toNat = (reportedKey s).val := by
  rw [State.reg_congr (s.takeInput.setReg x _) (completedWait x s) rfl, State.reg_setReg_self, toNat_keyByte]

theorem reg_completedWait_ne {x r : Reg} (s : State) (h : r ≠ x) : (completedWait x s).reg r = s.reg r := by
  rw [State.reg_congr (s.takeInput.setReg x _) (completedWait x s) rfl, State.reg_setReg_ne _ _ _ _ h, State.reg_takeInput]

theorem reportedKey_fresh {s : State} (h : freshKeys s.waitBase s.input.keyLevel ≠ 0) :
    s.input.keyLevel.getLsbD (reportedKey s).val = true ∧ s.waitBase.getLsbD (reportedKey s).val = false := by
  rw [Ne, keySet_eq_zero_iff, not_forall] at h
  obtain ⟨k, hk⟩ := h
  exact (freshKeys_mem_iff _ _ _).mp (arbitrate_mem _ _ k (Bool.eq_true_of_not_eq_false hk))

/-- Settles O16: the wait slot completes with the arbiter's key, which is fresh, and is the preferred one when that is fresh. -/
theorem freshPressCompletesTheWait : Obligations.FreshPressCompletesTheWait := by
  intro s x hrun ha hpress
  obtain ⟨k, hdown, hup⟩ := hpress
  rcases waitSlot_takeInput_cases x s with ⟨hnone, _⟩ | ⟨hfresh, e⟩
  · exact absurd ((freshKeys_eq_zero_iff _ _).mp hnone k hdown) (Bool.eq_false_iff.mp hup)
  · obtain ⟨hreported, hbase⟩ := reportedKey_fresh hfresh
    refine ⟨_, reportedKey s, (step_of_wait hrun ha).trans (congrArg _ e), hreported, hbase, toNat_reg_completedWait x s,
      fun hpick hpickBase => arbitrate_pick _ _ ((freshKeys_mem_iff _ _ _).mpr ⟨hpick, hpickBase⟩), rfl, rfl,
      fun r hr => reg_completedWait_ne s hr, ?_⟩
    apply UnchangedBut.of_fields <;> simp [completedWait]

/-- Settles O17: the key reported is fresh, and one that is held is not. -/
theorem heldKeyIsNotReported : Obligations.HeldKeyIsNotReported := by
  intro s x k hrun ha hbase hdown
  refine ⟨_, step_of_wait hrun ha, ?_⟩
  rcases waitSlot_takeInput_cases x s with ⟨_, e⟩ | ⟨hfresh, e⟩ <;> rw [e]
  · exact .inl ⟨(State.takeInput_run s).trans hrun, hdown⟩
  · refine .inr ⟨rfl, fun heq => ?_⟩
    rw [toNat_reg_completedWait] at heq
    obtain ⟨_, hup⟩ := reportedKey_fresh hfresh
    rw [heq, hbase] at hup
    cases hup

/-! ### Memory and the stack change only by their forms -/

theorem mem_mem_partsWritten_iff (i : Instr) :
    .mem ∈ partsWritten i ↔ ∃ x, i = .storeBcd x ∨ i = .storeRegisters x := by
  cases i <;> simp [partsWritten]

theorem sp_mem_partsWritten_iff (i : Instr) : .sp ∈ partsWritten i ↔ i = .ret ∨ ∃ nnn, i = .call nnn := by
  cases i <;> simp [partsWritten]

theorem stack_mem_partsWritten_iff (i : Instr) : .stack ∈ partsWritten i ↔ ∃ nnn, i = .call nnn := by
  cases i <;> simp [partsWritten]

/-- Settles O56: no agent changes memory by itself, and the forms that write it are the two stores. -/
theorem onlyStoresChangeMemory : Obligations.OnlyStoresChangeMemory := by
  intro s t a h hne
  obtain ⟨i, hi, hmem⟩ := executes_of_changed h (c := .mem) (by decide) fun hsame => hne (hsame a)
  obtain ⟨x, rfl | rfl⟩ := (mem_mem_partsWritten_iff i).mp hmem
  · exact ⟨x, .inl hi⟩
  · exact ⟨x, .inr hi⟩

/-- Settles O57: no agent changes the stack by itself, and the forms that write it are return and call. -/
theorem onlyCallAndReturnChangeTheStack : Obligations.OnlyCallAndReturnChangeTheStack := by
  intro s t h
  constructor
  · intro hne
    obtain ⟨i, hi, hmem⟩ := executes_of_changed h (c := .sp) (by decide) hne
    obtain rfl | ⟨nnn, rfl⟩ := (sp_mem_partsWritten_iff i).mp hmem
    · exact .inl hi
    · exact .inr ⟨nnn, hi⟩
  · rintro ⟨k, hne⟩
    obtain ⟨i, hi, hmem⟩ := executes_of_changed h (c := .stack) (by decide) fun hsame => hne (hsame k)
    obtain ⟨nnn, rfl⟩ := (stack_mem_partsWritten_iff i).mp hmem
    exact ⟨nnn, hi⟩

/-! ### The idle jump (70_reset_and_hazards.md R222) -/

/-- A listed part that is the same need not be listed. -/
theorem UnchangedBut.drop {c : Component} {cs : List Component} {s t : State} (h : UnchangedBut (c :: cs) s t)
    (hc : c.Same s t) : UnchangedBut cs s t := by
  intro d hd
  by_cases hdc : d = c
  · rwa [hdc]
  · exact h d (by simp [hdc, hd])

/-- Settles O60: the advance and the jump change no part but `pc`, and the jump takes `pc` back to where it was. -/
theorem jumpToItselfIsIdle : Obligations.JumpToItselfIsIdle := by
  intro s nnn hexec htarget
  have hbound : nnn.toNat ≤ 4094 := by
    obtain ⟨_, _, hfetch, _⟩ := hexec
    omega
  obtain ⟨hpc, hframe⟩ := State.transfer_reaches (s.takeInput.present s.input).advance hbound
  refine ⟨_, (step_of_executes s _ hexec).trans (exec_jump nnn _), UnchangedBut.drop (c := .pc) ?_ ?_⟩
  · have hadvanced : UnchangedBut [.pc, .keys, .rand, .agenda, .inputIndex] s (s.takeInput.present s.input).advance := by
      apply UnchangedBut.of_fields <;> simp
    exact hadvanced.trans (hframe.mono (by simp))
  · exact BitVec.eq_of_toNat_eq (hpc.trans htarget)

end Sys2Proof.Machine
end

section
/-! PROOFS. The forms one by one: control transfer, arithmetic, index and memory, draw and wait-for-key. -/

namespace Sys2Proof.Machine

/-! ### return and call (40_control_flow.md R100, R102) -/

theorem exec_ret_of_empty {s : State} (h : s.sp.val = 0) : exec .ret s = .next (s.raise .stackUnderflow) :=
  congrArg Host.Outcome.next (if_pos h)

theorem exec_ret_of_live {s : State} (h : s.sp.val ≠ 0) : exec .ret s = .next s.popPc :=
  congrArg Host.Outcome.next (if_neg h)

theorem exec_call_of_full (nnn : Addr12) {s : State} (h : 16 ≤ s.sp.val) :
    exec (.call nnn) s = .next (s.raise .stackOverflow) :=
  congrArg Host.Outcome.next (if_pos h)

theorem exec_call_of_gt {nnn : Addr12} {s : State} (h : s.sp.val < 16) (hn : 4094 < nnn.toNat) :
    exec (.call nnn) s = .next (s.raise .addressOutOfRange) :=
  congrArg Host.Outcome.next ((if_neg (Nat.not_le.mpr h)).trans (if_pos hn))

theorem exec_call_of_le {nnn : Addr12} {s : State} (h : s.sp.val < 16) (hn : nnn.toNat ≤ 4094) :
    exec (.call nnn) s = .next (s.pushPc.setPc (nnn.zeroExtend 16)) :=
  congrArg Host.Outcome.next ((if_neg (Nat.not_le.mpr h)).trans (if_neg (Nat.not_lt.mpr hn)))

/-- Settles O24: return is the pop of a live entry. -/
theorem returnPopsTheStack : Obligations.ReturnPopsTheStack := by
  refine fun s => ⟨fun k hk => ?_, fun h => ⟨_, exec_ret_of_empty h, rfl⟩⟩
  refine ⟨_, exec_ret_of_live (by omega), ?_, s.popPc_pc_of_sp k hk, s.unchangedBut_popPc.mono (by simp)⟩
  rw [State.popPc_sp]
  omega

/-- Settles O26: call is the push of the advanced `pc`, then the transfer. -/
theorem callPushesTheReturnAddress : Obligations.CallPushesTheReturnAddress := by
  refine fun nnn s => ⟨fun k hk hn => ?_, fun h => ⟨_, exec_call_of_full nnn (Nat.le_of_eq h.symm), rfl⟩,
    fun h hn => ⟨_, exec_call_of_gt h hn, rfl⟩⟩
  have hsp : s.sp.val < 16 := by omega
  refine ⟨_, exec_call_of_le hsp hn, ?_, fun j hj => ?_, s.pushPc_sp hsp, toNat_zeroExtend_addr nnn, ?_⟩
  · exact (s.getElem_stack_pushPc k).trans (if_pos hk)
  · exact (s.getElem_stack_pushPc j).trans (if_neg fun e => hj (Fin.ext (e.symm.trans hk)))
  · exact (s.unchangedBut_pushPc.mono (by simp)).trans ((s.pushPc.unchangedBut_setPc _).mono (by simp))

/-! ### jump-plus-v0 and the register skips (40_control_flow.md R104, R107, R108) -/

theorem exec_jumpPlusV0 (nnn : Addr12) (s : State) :
    exec (.jumpPlusV0 nnn) s = .next (s.transfer (nnn.toNat + (s.reg 0).toNat)) := rfl

theorem exec_skipEqReg (x y : Reg) (s : State) : exec (.skipEqReg x y) s = .next (s.skipIf (s.reg x == s.reg y)) := rfl

theorem exec_skipNeReg (x y : Reg) (s : State) : exec (.skipNeReg x y) s = .next (s.skipIf (s.reg x != s.reg y)) := rfl

/-- Settles O27: jump-plus-v0 is the transfer to the sum, a number that nothing has reduced. -/
theorem jumpPlusV0GoesToTheSum : Obligations.JumpPlusV0GoesToTheSum := fun nnn s =>
  ⟨fun h => ⟨_, exec_jumpPlusV0 nnn s, s.transfer_reaches h⟩, fun h => ⟨_, exec_jumpPlusV0 nnn s, s.transfer_faults h⟩⟩

/-- Settles O29: both forms are a conditional skip, and two bytes are equal exactly when their numbers are. -/
theorem registerSkipsFollowTheirCondition : Obligations.RegisterSkipsFollowTheirCondition := by
  intro x y
  constructor
  · exact skipsWhen_of_exec_skipIf (exec_skipEqReg x y) fun _ => beq_iff_eq.trans BitVec.toNat_inj.symm
  · exact skipsWhen_of_exec_skipIf (exec_skipNeReg x y) fun _ => bne_iff_ne.trans BitVec.toNat_ne_iff_ne.symm

/-! ### The key skips (44_input_timers.md R161 to R163) -/

theorem exec_skipIfKeyDown (x : Reg) (s : State) : exec (.skipIfKeyDown x) s = .next (s.skipOnKey x true) := rfl

theorem exec_skipIfKeyUp (x : Reg) (s : State) : exec (.skipIfKeyUp x) s = .next (s.skipOnKey x false) := rfl

theorem State.skipOnKey_faults {s : State} {x : Reg} (level : Bool) (h : 15 < (s.reg x).toNat) :
    (s.skipOnKey x level).run = .faulted .invalidRegisterOperand := by
  rw [State.skipOnKey, s.digitOperand_of_gt x h, State.raise_run]

theorem State.skipOnKey_of_key {s : State} {x : Reg} {k : Key} (level : Bool) (h : (s.reg x).toNat = k.val) :
    s.skipOnKey x level = s.skipIf (s.keys.getLsbD k.val == level) := by
  rw [State.skipOnKey, s.digitOperand_of_le x k h]

/-- A conditional skip whose target is in range. -/
theorem State.skipIf_reaches (s : State) (c : Bool) (h : s.pc.toNat + 2 ≤ 4094) :
    (s.skipIf c).pc.toNat = s.pc.toNat + (if c then 2 else 0) ∧ UnchangedBut [.pc] s (s.skipIf c) := by
  cases c with
  | true => exact s.skip_reaches h
  | false => exact ⟨rfl, UnchangedBut.refl _ s⟩

/-- Settles O30: for the number of a key both forms are a conditional skip on the level of that key. -/
theorem keySkipsFollowTheSample : Obligations.KeySkipsFollowTheSample := by
  refine fun x s => ⟨fun h => ⟨⟨_, exec_skipIfKeyDown x s, State.skipOnKey_faults _ h⟩,
    ⟨_, exec_skipIfKeyUp x s, State.skipOnKey_faults _ h⟩⟩, fun k hk => ?_⟩
  rw [exec_skipIfKeyDown, exec_skipIfKeyUp, State.skipOnKey_of_key _ hk, State.skipOnKey_of_key _ hk]
  refine ⟨fun h => ⟨⟨_, rfl, ?_⟩, ⟨_, rfl, ?_⟩⟩, fun h hdown => ?_, fun h hup => ?_⟩
  · simpa using s.skipIf_reaches (s.keys.getLsbD k.val == true) h
  · obtain ⟨hpc, hframe⟩ := s.skipIf_reaches (s.keys.getLsbD k.val == false) h
    refine ⟨hpc.trans ?_, hframe⟩
    cases s.keys.getLsbD k.val <;> rfl
  · rw [hdown]
    exact ⟨⟨_, rfl, s.skip_faults h⟩, ⟨s, rfl, UnchangedBut.refl _ s⟩⟩
  · rw [hup]
    exact ⟨⟨_, rfl, s.skip_faults h⟩, ⟨s, rfl, UnchangedBut.refl _ s⟩⟩

/-! ### Forms that write one register (41_alu.md R120, R121, R132) -/

theorem exec_loadConst (x : Reg) (nn : Byte) (s : State) : exec (.loadConst x nn) s = .next (s.setReg x nn) := rfl

theorem exec_addConst (x : Reg) (nn : Byte) (s : State) : exec (.addConst x nn) s = .next (s.setReg x (s.reg x + nn)) := rfl

theorem exec_randomMasked (x : Reg) (nn : Byte) (s : State) :
    exec (.randomMasked x nn) s = .next (s.setReg x (s.rand &&& nn)) := rfl

/-- Settles O31: both forms are one register write. -/
theorem constantFormsWriteOneRegister : Obligations.ConstantFormsWriteOneRegister := by
  refine fun x nn s => ⟨⟨_, exec_loadConst x nn s, s.reg_setReg_self x _, fun r hr => s.reg_setReg_ne x r _ hr,
    s.unchangedBut_setReg x _⟩,
    ⟨_, exec_addConst x nn s, ?_, fun r hr => s.reg_setReg_ne x r _ hr, s.unchangedBut_setReg x _⟩⟩
  rw [State.reg_setReg_self, BitVec.toNat_add]

/-- Settles O36: the form is one register write, and a bitwise and acts bit by bit. -/
theorem randomIsMasked : Obligations.RandomIsMasked := by
  refine fun x nn s => ⟨_, exec_randomMasked x nn s, fun k _ => ?_, fun r hr => s.reg_setReg_ne x r _ hr,
    s.unchangedBut_setReg x _⟩
  rw [State.reg_setReg_self, BitVec.getLsbD_and]

/-! ### The flag-producing forms (41_alu.md R127 to R131) -/

theorem State.arithFlag_of_ne (s : State) {x : Reg} (y : Reg) (f : Byte → Byte → Byte) (flag : Byte → Byte → Bool)
    (h : x ≠ 15) :
    s.arithFlag x y f flag =
      (s.setReg x (f (s.reg x) (s.reg y))).setReg 15 (flagByte (flag (s.reg x) (s.reg y))) := by
  rcases s.arithFlag_cases x y f flag with ⟨hx, _, _⟩ | ⟨_, e⟩
  · exact absurd hx h
  · exact e

theorem State.arithFlag_faults (s : State) {x : Reg} (y : Reg) (f : Byte → Byte → Byte) (flag : Byte → Byte → Bool)
    (hx : x = 15) (hp : s.vfDestPolicy = .fault) : (s.arithFlag x y f flag).run = .faulted .invalidRegisterOperand := by
  rcases s.arithFlag_cases x y f flag with ⟨_, _, e⟩ | ⟨h, _⟩
  · rw [e, State.raise_run]
  · exact absurd ⟨hx, hp⟩ h

section FlagForms

variable {form : Reg → Reg → Instr} {op : Byte → Byte → Byte} {flag : Byte → Byte → Bool}
  {result final : Nat → Nat → Nat}

/-- A form whose meaning is `State.arithFlag` of operations that compute `result` and `final` on the operands' numbers. -/
theorem flagForm_of_exec_arithFlag (hexec : ∀ x y s, exec (form x y) s = .next (s.arithFlag x y op flag))
    (hresult : ∀ a b, (op a b).toNat = result a.toNat b.toNat)
    (hflag : ∀ a b, (flagByte (flag a b)).toNat = final a.toNat b.toNat) : FlagForm form result final := by
  intro x y s
  rw [hexec x y s]
  constructor
  · intro hx
    refine ⟨_, rfl, ?_⟩
    rw [s.arithFlag_of_ne y op flag hx]
    refine ⟨?_, ?_, fun r hr hr15 => ?_, (s.unchangedBut_setReg x _).trans (State.unchangedBut_setReg _ 15 _)⟩
    · rw [State.reg_setReg_ne _ _ _ _ hx, State.reg_setReg_self, hresult]
    · rw [State.reg_setReg_self, hflag]
    · rw [State.reg_setReg_ne _ _ _ _ hr15, State.reg_setReg_ne _ _ _ _ hr]
  · exact fun hx hp => ⟨_, rfl, s.arithFlag_faults y op flag hx hp⟩

/-! #### Register 15 as destination under `permit` (41_alu.md R122) -/

theorem permittedForm_of_setReg {value : Byte → Byte → Byte}
    (hexec : ∀ y s, s.vfDestPolicy = .permit → exec (form 15 y) s = .next (s.setReg 15 (value (s.reg 15) (s.reg y))))
    (hvalue : ∀ a b, (value a b).toNat = final a.toNat b.toNat) : PermittedForm form final := by
  intro y s hp
  refine ⟨_, hexec y s hp, ?_, fun r hr => s.reg_setReg_ne 15 r _ hr, s.unchangedBut_setReg 15 _⟩
  rw [State.reg_setReg_self, hvalue]

theorem permittedForm_of_exec_arith (hexec : ∀ x y s, exec (form x y) s = .next (s.arith x y op))
    (hresult : ∀ a b, (op a b).toNat = final a.toNat b.toNat) : PermittedForm form final := by
  refine permittedForm_of_setReg (fun y s hp => ?_) hresult
  rw [hexec]
  rcases s.arith_cases 15 y op with ⟨_, hfault, _⟩ | ⟨_, e⟩
  · exact absurd (hp.symm.trans hfault) (by decide)
  · rw [e]

/-- The flag is written over the result. -/
theorem permittedForm_of_exec_arithFlag (hexec : ∀ x y s, exec (form x y) s = .next (s.arithFlag x y op flag))
    (hflag : ∀ a b, (flagByte (flag a b)).toNat = final a.toNat b.toNat) : PermittedForm form final := by
  refine permittedForm_of_setReg (value := fun a b => flagByte (flag a b)) (fun y s hp => ?_) hflag
  rw [hexec]
  rcases s.arithFlag_cases 15 y op flag with ⟨_, hfault, _⟩ | ⟨_, e⟩
  · exact absurd (hp.symm.trans hfault) (by decide)
  · rw [e, State.setReg_setReg_self]

end FlagForms

/-! #### Results and flags as numbers (41_alu.md R133) -/

theorem toNat_flagByte (b : Bool) : (flagByte b).toNat = if b then 1 else 0 := by
  cases b <;> rfl

theorem toNat_carryFlag (a b : Byte) : (flagByte (carryOut a b)).toNat = if 255 < a.toNat + b.toNat then 1 else 0 := by
  simp only [toNat_flagByte, carryOut, decide_eq_true_eq, gt_iff_lt]

theorem toNat_notBorrowFlag (a b : Byte) : (flagByte (notBorrow a b)).toNat = if a.toNat < b.toNat then 0 else 1 := by
  by_cases h : a.toNat < b.toNat <;> simp [toNat_flagByte, notBorrow, h]

theorem toNat_lowBitFlag (b : Byte) : (flagByte (lowBit b)).toNat = b.toNat % 2 := by
  rw [toNat_flagByte, lowBit, BitVec.getLsbD, Nat.testBit_zero]
  rcases Nat.mod_two_eq_zero_or_one b.toNat with h | h <;> simp [h]

theorem toNat_highBitFlag (b : Byte) : (flagByte (highBit b)).toNat = b.toNat / 128 := by
  have hlt : b.toNat < 256 := b.isLt
  rw [toNat_flagByte, highBit, BitVec.getLsbD, Nat.testBit_eq_decide_div_mod_eq]
  by_cases h : b.toNat / 2 ^ 7 % 2 = 1
  · rw [decide_eq_true h, if_pos rfl]
    omega
  · rw [decide_eq_false h, if_neg Bool.false_ne_true]
    omega

theorem toNat_sub_byte (a b : Byte) : (a - b).toNat = (a.toNat + 256 - b.toNat) % 256 := by
  have hb : b.toNat < 256 := b.isLt
  rw [BitVec.toNat_sub]
  omega

theorem toNat_half (b : Byte) : (b >>> 1).toNat = b.toNat / 2 := by
  rw [BitVec.toNat_ushiftRight, Nat.shiftRight_eq_div_pow, pow_one]

theorem toNat_double (b : Byte) : (b <<< 1).toNat = 2 * b.toNat % 256 := by
  rw [BitVec.toNat_shiftLeft, Nat.shiftLeft_eq, pow_one, Nat.mul_comm]

theorem exec_addWithCarry (x y : Reg) (s : State) :
    exec (.addWithCarry x y) s = .next (s.arithFlag x y (fun a b => a + b) carryOut) := rfl

theorem exec_subWithBorrow (x y : Reg) (s : State) :
    exec (.subWithBorrow x y) s = .next (s.arithFlag x y (fun a b => a - b) notBorrow) := rfl

theorem exec_subReverseWithBorrow (x y : Reg) (s : State) :
    exec (.subReverseWithBorrow x y) s = .next (s.arithFlag x y (fun a b => b - a) fun a b => notBorrow b a) := rfl

theorem exec_shiftRight (x y : Reg) (s : State) :
    exec (.shiftRight x y) s = .next (s.arithFlag x y (fun _ b => b >>> 1) fun _ b => lowBit b) := rfl

theorem exec_shiftLeft (x y : Reg) (s : State) :
    exec (.shiftLeft x y) s = .next (s.arithFlag x y (fun _ b => b <<< 1) fun _ b => highBit b) := rfl

/-- Settles O33: the three forms are the shared flag-producing operation. -/
theorem sumAndDifferenceFormsSetTheFlag : Obligations.SumAndDifferenceFormsSetTheFlag :=
  ⟨flagForm_of_exec_arithFlag exec_addWithCarry (fun _ _ => BitVec.toNat_add _ _) toNat_carryFlag,
    flagForm_of_exec_arithFlag exec_subWithBorrow toNat_sub_byte toNat_notBorrowFlag,
    flagForm_of_exec_arithFlag exec_subReverseWithBorrow (fun a b => toNat_sub_byte b a) fun a b => toNat_notBorrowFlag b a⟩

/-- Settles O34: the two forms are the shared flag-producing operation, of the second operand alone. -/
theorem shiftFormsReadTheSecondOperand : Obligations.ShiftFormsReadTheSecondOperand :=
  ⟨flagForm_of_exec_arithFlag exec_shiftRight (fun _ => toNat_half) fun _ => toNat_lowBitFlag,
    flagForm_of_exec_arithFlag exec_shiftLeft (fun _ => toNat_double) fun _ => toNat_highBitFlag⟩

/-- Settles O35: of the two writes to register 15 the flag's is the later one. -/
theorem permittedFlagDestination : Obligations.PermittedFlagDestination :=
  ⟨permittedForm_of_exec_arith exec_copy fun _ _ => rfl,
    permittedForm_of_exec_arith exec_bitOr BitVec.toNat_or,
    permittedForm_of_exec_arith exec_bitAnd BitVec.toNat_and,
    permittedForm_of_exec_arith exec_bitXor BitVec.toNat_xor,
    permittedForm_of_exec_arithFlag exec_addWithCarry toNat_carryFlag,
    permittedForm_of_exec_arithFlag exec_subWithBorrow toNat_notBorrowFlag,
    permittedForm_of_exec_arithFlag exec_shiftRight fun _ => toNat_lowBitFlag,
    permittedForm_of_exec_arithFlag exec_subReverseWithBorrow fun a b => toNat_notBorrowFlag b a,
    permittedForm_of_exec_arithFlag exec_shiftLeft fun _ => toNat_highBitFlag⟩

/-! ### The index register (42_index_memory.md R141, R142) -/

theorem exec_addIndexFromReg (x : Reg) (s : State) :
    exec (.addIndexFromReg x) s = .next (s.setIndex (s.index + (s.reg x).zeroExtend 16)) := rfl

/-- Settles O38: the byte loses nothing in the 16 bits of `I`, and the sum is that of 16-bit words. -/
theorem addIndexWrapsWithoutFlag : Obligations.AddIndexWrapsWithoutFlag := by
  intro x s
  have hbyte : ((s.reg x).zeroExtend 16).toNat = (s.reg x).toNat := BitVec.toNat_setWidth_of_le (by decide)
  refine ⟨_, exec_addIndexFromReg x s, ?_, s.unchangedBut_setIndex _⟩
  rw [State.setIndex_index, BitVec.toNat_add, hbyte]

theorem exec_loadIndexFont_of_gt {x : Reg} {s : State} (h : 15 < (s.reg x).toNat) :
    exec (.loadIndexFont x) s = .next (s.raise .invalidRegisterOperand) := by
  simp only [exec, execLoadIndexFont, s.digitOperand_of_gt x h]

/-- Every glyph lies in memory, so the range check passes (D32). -/
theorem exec_loadIndexFont_of_digit {x : Reg} {s : State} (d : Fin 16) (h : (s.reg x).toNat = d.val) :
    exec (.loadIndexFont x) s = .next (s.setIndex (BitVec.ofNat 16 (5 * d.val))) := by
  have hrange : ¬ 5 * d.val + 5 > 4096 := by omega
  simp only [exec, execLoadIndexFont, s.digitOperand_of_le x d h, fontBase, memSize, Nat.zero_add, if_neg hrange]

/-- Settles O39: a register below 16 holds a digit, and five times a digit fits `I`. -/
theorem loadIndexFontPointsAtTheGlyph : Obligations.LoadIndexFontPointsAtTheGlyph := by
  refine fun x s => ⟨fun h => ?_, fun h => ⟨_, exec_loadIndexFont_of_gt h, rfl⟩⟩
  refine ⟨_, exec_loadIndexFont_of_digit ⟨(s.reg x).toNat, by omega⟩ rfl, ?_, s.unchangedBut_setIndex _⟩
  rw [State.setIndex_index, BitVec.toNat_ofNat]
  exact Nat.mod_eq_of_lt (show 5 * (s.reg x).toNat < 65536 by omega)

/-! ### Stores at `I` (42_index_memory.md R143, R147) -/

section Stores

variable (s : State) (bs : List Byte)

/-- A store in range: the byte at each address of the range. -/
theorem State.readByte_storeAtIndex {k : Nat} (h : s.index.toNat + bs.length ≤ 4096) (hk : k < bs.length) :
    (s.storeAtIndex bs).readByte (s.index.toNat + k) = bs.getD k 0 := by
  rcases s.storeAtIndex_cases bs with ⟨_, e⟩ | ⟨hgt, _⟩
  · have hin : s.index.toNat ≤ s.index.toNat + k ∧ s.index.toNat + k < s.index.toNat + bs.length := by omega
    rw [e, State.readByte, State.setMem_mem, Memory.read_writeBytes, if_pos hin, Nat.add_sub_cancel_left]
  · omega

/-- No store changes a byte outside its range. -/
theorem State.readByte_storeAtIndex_outside {a : Nat} (ha : a < s.index.toNat ∨ s.index.toNat + bs.length ≤ a) :
    (s.storeAtIndex bs).readByte a = s.readByte a := by
  rcases s.storeAtIndex_cases bs with ⟨_, e⟩ | ⟨_, e⟩
  · have hout : ¬ (s.index.toNat ≤ a ∧ a < s.index.toNat + bs.length) := by omega
    rw [e, State.readByte, State.setMem_mem, Memory.read_writeBytes, if_neg hout, State.readByte]
  · rw [e]
    rfl

theorem State.unchangedBut_storeAtIndex_of_le (h : s.index.toNat + bs.length ≤ 4096) :
    UnchangedBut [.mem] s (s.storeAtIndex bs) := by
  rcases s.storeAtIndex_cases bs with ⟨_, e⟩ | ⟨hgt, _⟩
  · rw [e]
    exact s.unchangedBut_setMem _
  · omega

theorem State.storeAtIndex_of_gt (h : 4096 < s.index.toNat + bs.length) :
    s.storeAtIndex bs = s.raise .addressOutOfRange := by
  rcases s.storeAtIndex_cases bs with ⟨hle, _⟩ | ⟨_, e⟩
  · omega
  · exact e

end Stores

theorem exec_storeBcd (x : Reg) (s : State) : exec (.storeBcd x) s = .next (s.storeAtIndex (bcdDigits (s.reg x))) := rfl

theorem exec_storeRegisters (x : Reg) (s : State) :
    exec (.storeRegisters x) s = .next (s.storeAtIndex (s.regsUpTo x)) := rfl

/-- The stored digits as numbers: each is below 10, so a byte holds it. -/
theorem map_toNat_bcdDigits (v : Byte) :
    (bcdDigits v).map BitVec.toNat = [v.toNat / 100, v.toNat / 10 % 10, v.toNat % 10] := by
  have hv : v.toNat < 256 := v.isLt
  simp only [bcdDigits, List.map_cons, List.map_nil, BitVec.toNat_ofNat, List.cons.injEq, and_true]
  omega

theorem toNat_getD_bcdDigits (v : Byte) (k : Nat) :
    ((bcdDigits v).getD k 0).toNat = [v.toNat / 100, v.toNat / 10 % 10, v.toNat % 10].getD k 0 := by
  rw [← map_toNat_bcdDigits]
  exact (List.getD_map (bcdDigits v) 0 BitVec.toNat).symm

/-- Settles O43: decimal digits are the quotients and remainders of the value. -/
theorem bcdDigitsAreTheOnlyOnes : Obligations.BcdDigitsAreTheOnlyOnes := by
  intro v h t o hh ht ho
  simp only [map_toNat_bcdDigits, List.cons.injEq, and_true]
  omega

/-- Settles O40: store-bcd is the store of the three digits. -/
theorem storeBcdStoresThreeDigits : Obligations.StoreBcdStoresThreeDigits := by
  refine fun x s => ⟨fun h => ?_, fun h => ?_⟩
  · have hdigit : ∀ k, k < 3 → ((s.storeAtIndex (bcdDigits (s.reg x))).readByte (s.index.toNat + k)).toNat =
        [(s.reg x).toNat / 100, (s.reg x).toNat / 10 % 10, (s.reg x).toNat % 10].getD k 0 := fun k hk => by
      rw [s.readByte_storeAtIndex (bcdDigits (s.reg x)) h hk, toNat_getD_bcdDigits]
    exact ⟨_, exec_storeBcd x s, hdigit 0 (by decide), hdigit 1 (by decide), hdigit 2 (by decide),
      fun a ha => s.readByte_storeAtIndex_outside _ ha, s.unchangedBut_storeAtIndex_of_le _ h⟩
  · refine ⟨_, exec_storeBcd x s, ?_⟩
    rw [s.storeAtIndex_of_gt (bcdDigits (s.reg x)) h]
    exact ⟨rfl, fun _ => rfl⟩

theorem State.readByte_storeRegisters {s : State} {x r : Reg} (h : s.index.toNat + (x.val + 1) ≤ 4096)
    (hr : r.val ≤ x.val) : (s.storeAtIndex (s.regsUpTo x)).readByte (s.index.toNat + r.val) = s.reg r := by
  rw [s.readByte_storeAtIndex _ (by simpa using h) (by simpa using Nat.lt_succ_of_le hr), s.getD_regsUpTo x r hr]

/-- Settles O41: store-registers is the store of the list of registers. -/
theorem storeRegistersStoresTheRange : Obligations.StoreRegistersStoresTheRange := by
  refine fun x s => ⟨fun h => ?_, fun h => ?_⟩
  · exact ⟨_, exec_storeRegisters x s, fun r hr => State.readByte_storeRegisters h hr,
      fun a ha => s.readByte_storeAtIndex_outside _ (by simpa using ha),
      s.unchangedBut_storeAtIndex_of_le _ (by simpa using h)⟩
  · refine ⟨_, exec_storeRegisters x s, ?_⟩
    rw [s.storeAtIndex_of_gt _ (by simpa using h)]
    exact ⟨rfl, fun _ => rfl⟩

/-- Settles O44: the next fetch reads the addresses of the first two registers stored, at `pc`, which the store leaves. -/
theorem storeIsSeenByTheNextFetch : Obligations.StoreIsSeenByTheNextFetch := by
  intro x s hx hindex h
  refine ⟨_, exec_storeRegisters x s, ?_⟩
  have hpc : (s.storeAtIndex (s.regsUpTo x)).pc = s.index :=
    (s.unchangedBut_storeAtIndex _ .pc (by decide)).trans hindex.symm
  have hfirst := State.readByte_storeRegisters (r := 0) h (Nat.zero_le _)
  have hsecond := State.readByte_storeRegisters (r := 1) h hx
  rw [State.fetchWord_eq_wordOfBytes, toNat_wordOfBytes, hpc]
  exact congrArg₂ (fun a b : Byte => 256 * a.toNat + b.toNat) hfirst hsecond

/-! ### load-registers (42_index_memory.md R148) -/

theorem exec_loadRegisters (x : Reg) (s : State) : exec (.loadRegisters x) s = .next (s.loadFromIndex x) := rfl

/-- The registers after a load in range. -/
theorem State.reg_loadFromIndex {s : State} {x : Reg} (h : s.index.toNat + (x.val + 1) ≤ 4096) (r : Reg) :
    (s.loadFromIndex x).reg r = if r.val ≤ x.val then s.readByte (s.index.toNat + r.val) else s.reg r := by
  rcases s.loadFromIndex_cases x with ⟨_, e⟩ | ⟨hgt, _⟩
  · rw [e, State.reg, State.setRegs_regs, getElem_writeRegsFrom, Memory.length_readBytes]
    by_cases hr : r.val ≤ x.val
    · have hin : 0 ≤ r.val ∧ r.val < 0 + (x.val + 1) := by omega
      rw [if_pos hin, if_pos hr, Nat.sub_zero, Memory.getD_readBytes _ _ _ _ (by omega), State.readByte]
    · have hout : ¬ (0 ≤ r.val ∧ r.val < 0 + (x.val + 1)) := by omega
      rw [if_neg hout, if_neg hr, State.reg]
  · omega

theorem State.loadFromIndex_of_gt {s : State} {x : Reg} (h : 4096 < s.index.toNat + (x.val + 1)) :
    s.loadFromIndex x = s.raise .addressOutOfRange := by
  rcases s.loadFromIndex_cases x with ⟨hle, _⟩ | ⟨_, e⟩
  · omega
  · exact e

theorem State.unchangedBut_loadFromIndex_of_le {s : State} {x : Reg} (h : s.index.toNat + (x.val + 1) ≤ 4096) :
    UnchangedBut [.regs] s (s.loadFromIndex x) := by
  rcases s.loadFromIndex_cases x with ⟨_, e⟩ | ⟨hgt, _⟩
  · rw [e]
    exact s.unchangedBut_setRegs _
  · omega

/-- Settles O42: load-registers is the load of the range, all of it or nothing. -/
theorem loadRegistersLoadsTheRange : Obligations.LoadRegistersLoadsTheRange := by
  refine fun x s => ⟨fun h => ?_, fun h => ?_⟩
  · exact ⟨_, exec_loadRegisters x s, fun r hr => (State.reg_loadFromIndex h r).trans (if_pos hr),
      fun r hr => (State.reg_loadFromIndex h r).trans (if_neg (Nat.not_le.mpr hr)),
      State.unchangedBut_loadFromIndex_of_le h⟩
  · refine ⟨_, exec_loadRegisters x s, ?_⟩
    rw [State.loadFromIndex_of_gt h]
    exact ⟨rfl, fun _ => rfl⟩

/-! ### draw (43_display.md R152, R155) -/

theorem exec_draw_of_gt (x y : Reg) {n : Nat} {s : State} (h : 4096 < s.index.toNat + n) :
    exec (.draw x y n) s = .next (s.raise .addressOutOfRange) :=
  congrArg Host.Outcome.next (if_neg fun e => absurd (of_decide_eq_true e) (Nat.not_le.mpr h))

theorem State.reg_drawn_flag (s : State) (x y : Reg) (n : Nat) :
    (s.drawn x y n).reg 15 = flagByte (s.drawing x y n).collided :=
  State.reg_setReg_self _ 15 _

/-- Settles O46: the laws of a drawing say which cells it toggles and when it collides. -/
theorem drawIsTheSimultaneousXor : Obligations.DrawIsTheSimultaneousXor := by
  refine fun x y n s hn => ⟨fun h => ?_, fun h => ⟨_, exec_draw_of_gt x y h, rfl⟩⟩
  have hn32 : n ≤ 32 := by omega
  refine ⟨_, exec_draw x y n s h, s.cell_drawn x y hn32, (s.reg_drawn_flag_iff x y hn32).mpr, fun hclear => ?_,
    fun r hr => s.reg_drawn_ne x y n hr, ?_⟩
  · rw [← s.collided_drawing_iff x y hn32, Bool.not_eq_true] at hclear
    rw [s.reg_drawn_flag, hclear]
    rfl
  · exact ((s.unchangedBut_setFb _).mono (by simp)).trans ((State.unchangedBut_setReg _ 15 _).mono (by simp))

/-! ### wait-for-key (44_input_timers.md R164) -/

theorem exec_waitForKey (x : Reg) (s : State) : exec (.waitForKey x) s = .next (s.suspend x) := rfl

/-- Settles O48: wait-for-key is the suspension, which writes the run state and the base. -/
theorem waitForKeySuspends : Obligations.WaitForKeySuspends := fun x s =>
  ⟨_, exec_waitForKey x s, s.suspend_run x, s.suspend_waitBase x, s.unchangedBut_suspend x⟩

end Sys2Proof.Machine
end

section
/-! PROOFS. The tables of 10_state.md R21 and R46 and 60_exceptions.md R181 against the execution of every form. -/

namespace Sys2Proof.Machine

/-! ### A form faults by the cause table, or completes (60_exceptions.md R181, R190; 10_state.md R21, R46) -/

/-- What a form that does not fault does to the run state, the program counter and the registers. -/
structure Completes (i : Instr) (s t : State) : Prop where
  run : ∀ k, t.run = .faulted k → s.run = .faulted k
  pc : t.pc.toNat = pcAfter i s
  regs : ∀ r, r ∉ regWrites i → t.reg r = s.reg r

/-- The form faults by its first cause, changing the run state alone, or has no cause and completes. -/
def FaultsOrCompletes (i : Instr) (s : State) : Prop :=
  (∃ k, faultCause i s = some k ∧ exec i s = .next (s.raise k)) ∨
  (faultCause i s = none ∧ ∃ t, exec i s = .next t ∧ Completes i s t)

/-- The second of two causes is the first that holds when the first does not. -/
theorem causeIf_or_of_not {c : Prop} [Decidable c] (h : ¬ c) (k : FaultKind) (o : Option FaultKind) :
    (causeIf c k).or o = o := by
  rw [causeIf, if_neg h, Option.none_or]

section Operations

variable {i : Instr} {s : State}

theorem faultsOrCompletes_of_transfer {n : Nat} (hexec : exec i s = .next (s.transfer n))
    (hcause : faultCause i s = causeIf (4094 < n) .addressOutOfRange) (hpc : pcAfter i s = n) : FaultsOrCompletes i s := by
  rcases s.transfer_cases n with ⟨hle, e⟩ | ⟨hgt, e⟩
  · refine .inr ⟨hcause.trans (if_neg (Nat.not_lt.mpr hle)), _, hexec, ?_, ?_, fun r _ => ?_⟩
    · rw [e]
      exact fun _ => id
    · rw [hpc, (s.transfer_reaches hle).1]
    · rw [e, State.reg_setPc]
  · exact .inl ⟨_, hcause.trans (if_pos hgt), hexec.trans (congrArg _ e)⟩

theorem faultsOrCompletes_of_skipIf (hexec : exec i s = .next (s.skipIf (skipCondition i s)))
    (hcause : faultCause i s = causeIf (skipCondition i s = true ∧ 4094 < s.pc.toNat + 2) .addressOutOfRange)
    (hpc : pcAfter i s = if skipCondition i s then s.pc.toNat + 2 else s.pc.toNat) : FaultsOrCompletes i s := by
  rcases s.skipIf_cases (skipCondition i s) with ⟨hc, e⟩ | ⟨hc, hle, e⟩ | ⟨hc, hgt, e⟩
  · refine .inr ⟨hcause.trans (if_neg (by simp [hc])), _, hexec.trans (congrArg _ e), fun _ => id, ?_, fun _ _ => rfl⟩
    rw [hpc, hc, if_neg Bool.false_ne_true]
  · refine .inr ⟨hcause.trans (if_neg (by omega)), _, hexec.trans (congrArg _ e), fun _ => id, ?_,
      fun r _ => s.reg_setPc _ r⟩
    rw [hpc, hc, if_pos rfl, State.setPc_pc, s.pc_add_two (by omega)]
  · exact .inl ⟨_, hcause.trans (if_pos ⟨hc, hgt⟩), hexec.trans (congrArg _ e)⟩

theorem faultsOrCompletes_of_skipOnKey {x : Reg} {level : Bool} (hexec : exec i s = .next (s.skipOnKey x level))
    (hcond : skipCondition i s = (s.keys.getLsbD (s.reg x).toNat == level))
    (hcause : faultCause i s = (causeIf (15 < (s.reg x).toNat) .invalidRegisterOperand).or
      (causeIf (skipCondition i s = true ∧ 4094 < s.pc.toNat + 2) .addressOutOfRange))
    (hpc : pcAfter i s = if skipCondition i s then s.pc.toNat + 2 else s.pc.toNat) : FaultsOrCompletes i s := by
  rcases s.skipOnKey_cases x level with ⟨hgt, e⟩ | ⟨k, hk, e⟩
  · refine .inl ⟨.invalidRegisterOperand, ?_, hexec.trans (congrArg _ e)⟩
    rw [hcause, causeIf, if_pos hgt, Option.some_or]
  · rw [← hk, ← hcond] at e
    rw [causeIf_or_of_not (by omega)] at hcause
    exact faultsOrCompletes_of_skipIf (hexec.trans (congrArg _ e)) hcause hpc

theorem faultsOrCompletes_of_arith {x y : Reg} {f : Byte → Byte → Byte} (hexec : exec i s = .next (s.arith x y f))
    (hcause : faultCause i s = causeIf (x = 15 ∧ s.vfDestPolicy = .fault) .invalidRegisterOperand)
    (hpc : pcAfter i s = s.pc.toNat) (hx : x ∈ regWrites i) : FaultsOrCompletes i s := by
  rcases s.arith_cases x y f with ⟨h15, hp, e⟩ | ⟨h, e⟩
  · exact .inl ⟨_, hcause.trans (if_pos ⟨h15, hp⟩), hexec.trans (congrArg _ e)⟩
  · refine .inr ⟨hcause.trans (if_neg h), _, hexec.trans (congrArg _ e), fun _ => id, hpc.symm, fun r hr => ?_⟩
    exact s.reg_setReg_ne x r _ (ne_of_mem_of_not_mem hx hr).symm

theorem faultsOrCompletes_of_arithFlag {x y : Reg} {f : Byte → Byte → Byte} {flag : Byte → Byte → Bool}
    (hexec : exec i s = .next (s.arithFlag x y f flag))
    (hcause : faultCause i s = causeIf (x = 15 ∧ s.vfDestPolicy = .fault) .invalidRegisterOperand)
    (hpc : pcAfter i s = s.pc.toNat) (hwrites : regWrites i = [x, 15]) : FaultsOrCompletes i s := by
  rcases s.arithFlag_cases x y f flag with ⟨h15, hp, e⟩ | ⟨h, e⟩
  · exact .inl ⟨_, hcause.trans (if_pos ⟨h15, hp⟩), hexec.trans (congrArg _ e)⟩
  · refine .inr ⟨hcause.trans (if_neg h), _, hexec.trans (congrArg _ e), fun _ => id, hpc.symm, fun r hr => ?_⟩
    obtain ⟨hrx, hr15⟩ : r ≠ x ∧ r ≠ 15 := by simpa [hwrites] using hr
    rw [State.reg_setReg_ne _ _ _ _ hr15, State.reg_setReg_ne _ _ _ _ hrx]

theorem faultsOrCompletes_of_storeAtIndex {bs : List Byte} (hexec : exec i s = .next (s.storeAtIndex bs))
    (hcause : faultCause i s = causeIf (4096 < s.index.toNat + bs.length) .addressOutOfRange)
    (hpc : pcAfter i s = s.pc.toNat) : FaultsOrCompletes i s := by
  rcases s.storeAtIndex_cases bs with ⟨hle, e⟩ | ⟨hgt, e⟩
  · exact .inr ⟨hcause.trans (if_neg (Nat.not_lt.mpr hle)), _, hexec.trans (congrArg _ e), fun _ => id, hpc.symm,
      fun r _ => s.reg_setMem _ r⟩
  · exact .inl ⟨_, hcause.trans (if_pos hgt), hexec.trans (congrArg _ e)⟩

/-- A form that writes one register and cannot fault. -/
theorem faultsOrCompletes_of_setReg {x : Reg} {v : Byte} (hexec : exec i s = .next (s.setReg x v))
    (hcause : faultCause i s = none) (hpc : pcAfter i s = s.pc.toNat) (hwrites : regWrites i = [x]) :
    FaultsOrCompletes i s := by
  refine .inr ⟨hcause, _, hexec, fun _ => id, hpc.symm, fun r hr => s.reg_setReg_ne x r _ ?_⟩
  simpa [hwrites] using hr

end Operations

theorem ret_faultsOrCompletes (s : State) : FaultsOrCompletes .ret s := by
  by_cases h : s.sp.val = 0
  · exact .inl ⟨_, if_pos h, exec_ret_of_empty h⟩
  · exact .inr ⟨if_neg h, _, exec_ret_of_live h, fun _ => id, rfl, fun r _ => s.reg_popPc r⟩

theorem call_faultsOrCompletes (nnn : Addr12) (s : State) : FaultsOrCompletes (.call nnn) s := by
  by_cases hsp : 16 ≤ s.sp.val
  · refine .inl ⟨.stackOverflow, ?_, exec_call_of_full nnn hsp⟩
    rw [faultCause, causeIf, if_pos hsp, Option.some_or]
  · have hlt : s.sp.val < 16 := Nat.not_le.mp hsp
    by_cases hn : 4094 < nnn.toNat
    · exact .inl ⟨_, (causeIf_or_of_not hsp _ _).trans (if_pos hn), exec_call_of_gt hlt hn⟩
    · exact .inr ⟨(causeIf_or_of_not hsp _ _).trans (if_neg hn), _, exec_call_of_le hlt (Nat.not_lt.mp hn), fun _ => id,
        toNat_zeroExtend_addr nnn, fun _ _ => rfl⟩

theorem draw_faultsOrCompletes (x y : Reg) (n : Nat) (s : State) : FaultsOrCompletes (.draw x y n) s := by
  by_cases h : 4096 < s.index.toNat + n
  · exact .inl ⟨_, if_pos h, exec_draw_of_gt x y h⟩
  · refine .inr ⟨if_neg h, _, exec_draw x y n s (Nat.not_lt.mp h), fun _ => id, rfl, fun r hr => ?_⟩
    exact s.reg_drawn_ne x y n (by simpa [regWrites] using hr)

theorem loadIndexFont_faultsOrCompletes (x : Reg) (s : State) : FaultsOrCompletes (.loadIndexFont x) s := by
  by_cases h : 15 < (s.reg x).toNat
  · exact .inl ⟨_, if_pos h, exec_loadIndexFont_of_gt h⟩
  · exact .inr ⟨if_neg h, _, exec_loadIndexFont_of_digit ⟨(s.reg x).toNat, by omega⟩ rfl, fun _ => id, rfl,
      fun _ _ => rfl⟩

theorem mem_regsTo_iff (x r : Reg) : r ∈ regsTo x ↔ r.val ≤ x.val := by
  simp [regsTo]

theorem loadRegisters_faultsOrCompletes (x : Reg) (s : State) : FaultsOrCompletes (.loadRegisters x) s := by
  by_cases h : 4096 < s.index.toNat + (x.val + 1)
  · exact .inl ⟨_, if_pos h, (exec_loadRegisters x s).trans (congrArg _ (State.loadFromIndex_of_gt h))⟩
  · have hle : s.index.toNat + (x.val + 1) ≤ 4096 := Nat.not_lt.mp h
    have hframe := State.unchangedBut_loadFromIndex_of_le hle
    have hrun : (s.loadFromIndex x).run = s.run := hframe .run (by decide)
    have hpc : (s.loadFromIndex x).pc = s.pc := hframe .pc (by decide)
    refine .inr ⟨if_neg h, _, exec_loadRegisters x s, fun k hk => hrun.symm.trans hk, congrArg _ hpc, fun r hr => ?_⟩
    rw [State.reg_loadFromIndex hle, if_neg ((mem_regsTo_iff x r).not.mp hr)]

/-- The one case analysis over the forms that the tables are held against. -/
theorem faultsOrCompletes (i : Instr) (s : State) : FaultsOrCompletes i s := by
  cases i with
  | ret => exact ret_faultsOrCompletes s
  | call nnn => exact call_faultsOrCompletes nnn s
  | draw x y n => exact draw_faultsOrCompletes x y n s
  | loadIndexFont x => exact loadIndexFont_faultsOrCompletes x s
  | loadRegisters x => exact loadRegisters_faultsOrCompletes x s
  | jump _ | jumpPlusV0 _ => exact faultsOrCompletes_of_transfer rfl rfl rfl
  | skipEqConst x nn => exact faultsOrCompletes_of_skipIf rfl rfl rfl
  | skipEqReg x y => exact faultsOrCompletes_of_skipIf rfl rfl rfl
  | skipNeConst x nn => exact faultsOrCompletes_of_skipIf (by rw [exec_skipNeConst, skipCondition, decide_not]; rfl) rfl rfl
  | skipNeReg x y => exact faultsOrCompletes_of_skipIf (by rw [exec_skipNeReg, skipCondition, decide_not]; rfl) rfl rfl
  | skipIfKeyDown x => exact faultsOrCompletes_of_skipOnKey (exec_skipIfKeyDown x s) (by simp [skipCondition]) rfl rfl
  | skipIfKeyUp x => exact faultsOrCompletes_of_skipOnKey (exec_skipIfKeyUp x s) (by simp [skipCondition]) rfl rfl
  | copy x y | bitOr x y | bitAnd x y | bitXor x y =>
    exact faultsOrCompletes_of_arith rfl rfl rfl (List.mem_singleton_self x)
  | addWithCarry x y | subWithBorrow x y | shiftRight x y | subReverseWithBorrow x y | shiftLeft x y =>
    exact faultsOrCompletes_of_arithFlag rfl rfl rfl rfl
  | storeBcd x => exact faultsOrCompletes_of_storeAtIndex (exec_storeBcd x s) rfl rfl
  | storeRegisters x =>
    exact faultsOrCompletes_of_storeAtIndex (exec_storeRegisters x s) (by rw [State.length_regsUpTo]; rfl) rfl
  | loadConst x _ | addConst x _ | randomMasked x _ | loadFromDelayTimer x =>
    exact faultsOrCompletes_of_setReg rfl rfl rfl rfl
  | clearScreen | loadIndex _ | addIndexFromReg _ | storeToDelayTimer _ | storeToSoundTimer _ =>
    exact .inr ⟨rfl, _, rfl, fun _ => id, rfl, fun _ _ => rfl⟩
  | waitForKey x => exact .inr ⟨rfl, _, exec_waitForKey x s, nofun, rfl, fun r _ => s.reg_suspend x r⟩

/-- Settles O51: from a running core a form ends in `Faulted` exactly by its first cause. -/
theorem faultsFollowTheCauseTable : Obligations.FaultsFollowTheCauseTable := by
  intro i s hrun
  rcases faultsOrCompletes i s with ⟨k, hcause, hexec⟩ | ⟨hcause, t, hexec, hdone⟩
  · refine ⟨_, hexec, fun k' => ?_⟩
    rw [State.raise_run, hcause, RunState.faulted.injEq, Option.some.injEq]
  · refine ⟨t, hexec, fun k => ⟨fun hk => ?_, fun hk => ?_⟩⟩
    · exact absurd (hrun.symm.trans (hdone.run k hk)) nofun
    · rw [hcause] at hk
      cases hk

/-- Settles O52: a form that completes is not faulted, and one that faults has raised its cause and done no more. -/
theorem faultsArePrecise : Obligations.FaultsArePrecise := by
  intro i s t k hrun hexec hfault
  rcases faultsOrCompletes i s with ⟨k', _, e⟩ | ⟨_, u, e, hdone⟩
  · cases e.symm.trans hexec
    exact s.unchangedBut_raise k'
  · cases e.symm.trans hexec
    exact absurd (hrun.symm.trans (hdone.run k hfault)) nofun

/-- Settles O53: raising a fault writes no register, and a form that completes keeps to its row of the table. -/
theorem registersAreWrittenAsTabled : Obligations.RegistersAreWrittenAsTabled := by
  intro i s t r hexec hr
  rcases faultsOrCompletes i s with ⟨k, _, e⟩ | ⟨_, u, e, hdone⟩
  · cases e.symm.trans hexec
    exact s.reg_raise k r
  · cases e.symm.trans hexec
    exact hdone.regs r hr

/-- Settles O55: a form that is not faulted has completed. -/
theorem pcAfterASlotIsAsTabled : Obligations.PcAfterASlotIsAsTabled := by
  intro i s t hexec hrun
  rcases faultsOrCompletes i s with ⟨k, _, e⟩ | ⟨_, u, e, hdone⟩
  · cases e.symm.trans hexec
    exact absurd rfl (hrun k)
  · cases e.symm.trans hexec
    exact hdone.pc

end Sys2Proof.Machine
end

section
/-! PROOFS. The column "reads" of 10_state.md R21, as non-interference. -/

namespace Sys2Proof.Machine

/-! ### A write to one register and the other updates of the state -/

section Commutes

variable (s : State) {r : Reg} (v : Byte)

theorem State.transfer_setReg (n : Nat) : (s.setReg r v).transfer n = (s.transfer n).setReg r v :=
  (apply_ite (State.setReg · r v) (n > maxFetch) (s.raise .addressOutOfRange) (s.setPc (BitVec.ofNat 16 n))).symm

theorem State.skip_setReg : (s.setReg r v).skip = s.skip.setReg r v :=
  (apply_ite (State.setReg · r v) (s.pc.toNat + 2 > maxFetch) (s.raise .addressOutOfRange) (s.setPc (s.pc + 2))).symm

theorem State.skipIf_setReg (c : Bool) : (s.setReg r v).skipIf c = (s.skipIf c).setReg r v := by
  cases c with
  | true => exact s.skip_setReg v
  | false => rfl

theorem State.digitOperand_setReg_ne {x : Reg} (hx : x ≠ r) : (s.setReg r v).digitOperand x = s.digitOperand x := by
  simp only [State.digitOperand, State.reg_setReg_ne _ _ _ _ hx]

theorem State.skipOnKey_setReg_ne {x : Reg} (hx : x ≠ r) (level : Bool) :
    (s.setReg r v).skipOnKey x level = (s.skipOnKey x level).setReg r v := by
  rw [State.skipOnKey, State.skipOnKey, s.digitOperand_setReg_ne v hx]
  cases s.digitOperand x with
  | some k => exact s.skipIf_setReg v _
  | none => rfl

theorem State.storeAtIndex_setReg (bs : List Byte) : (s.setReg r v).storeAtIndex bs = (s.storeAtIndex bs).setReg r v :=
  (apply_ite (State.setReg · r v) (s.dataInRange bs.length = true)
    (s.setMem (Memory.writeBytes s.mem s.index.toNat bs)) (s.raise .addressOutOfRange)).symm

/-- The registers `V[0..x]` do not include one above `x`. -/
theorem State.regsUpTo_setReg_gt {x : Reg} (hx : x.val < r.val) : (s.setReg r v).regsUpTo x = s.regsUpTo x := by
  simp only [State.regsUpTo, State.setReg_regs, Vector.toList_set]
  exact List.take_set_of_le hx

theorem State.drawing_setReg_ne {x y : Reg} (hx : x ≠ r) (hy : y ≠ r) (n : Nat) :
    (s.setReg r v).drawing x y n = s.drawing x y n := by
  simp only [State.drawing, State.reg_setReg_ne _ _ _ _ hx, State.reg_setReg_ne _ _ _ _ hy, State.setReg_fb,
    State.setReg_mem, State.setReg_index]

/-- Register files that agree register by register are equal. -/
theorem State.setRegs_congr {a b : Vector Byte 16} (h : ∀ q : Reg, a[q] = b[q]) : s.setRegs a = s.setRegs b :=
  congrArg s.setRegs (Vector.ext fun k hk => h ⟨k, hk⟩)

/-- A load of the registers up to number `n` overwrites a write to one of them. -/
theorem State.writeRegs_setReg_covered {bs : List Byte} (hr : r.val < bs.length) :
    (s.setReg r v).setRegs (writeRegsFrom (s.setReg r v).regs 0 bs) = s.setRegs (writeRegsFrom s.regs 0 bs) := by
  refine s.setRegs_congr fun q => ?_
  rw [getElem_writeRegsFrom, getElem_writeRegsFrom]
  by_cases hq : 0 ≤ q.val ∧ q.val < 0 + bs.length
  · rw [if_pos hq, if_pos hq]
  · rw [if_neg hq, if_neg hq]
    have hne : q ≠ r := by
      rintro rfl
      omega
    exact s.reg_setReg_ne r q v hne

/-- A load of registers commutes with a write to a register above them. -/
theorem State.writeRegs_setReg_above {bs : List Byte} (hr : bs.length ≤ r.val) :
    (s.setReg r v).setRegs (writeRegsFrom (s.setReg r v).regs 0 bs) =
      (s.setRegs (writeRegsFrom s.regs 0 bs)).setReg r v := by
  refine s.setRegs_congr fun q => ?_
  have hset := (s.setRegs (writeRegsFrom s.regs 0 bs)).reg_setReg r q v
  refine Eq.trans ?_ hset.symm
  rw [getElem_writeRegsFrom, State.reg, State.setRegs_regs, getElem_writeRegsFrom]
  have hold : (s.setReg r v).regs[q] = if q = r then v else s.regs[q] := s.reg_setReg r q v
  by_cases hq : 0 ≤ q.val ∧ q.val < 0 + bs.length
  · have hne : q ≠ r := by
      rintro rfl
      omega
    rw [if_pos hq, if_pos hq, if_neg hne]
  · rw [if_neg hq, if_neg hq, hold]

end Commutes

/-! ### The claim for one form -/

/-- What `RegistersAreReadAsTabled` claims of one form, state, register and value. -/
def Ignores (i : Instr) (s : State) (r : Reg) (v : Byte) : Prop :=
  (r ∉ regWrites i → exec i (s.setReg r v) = mapNext (fun t => t.setReg r v) (exec i s)) ∧
  (r ∈ regWrites i → ∀ t, exec i s = .next t → (∀ k, t.run ≠ .faulted k) → exec i (s.setReg r v) = .next t)

section Forms

variable {i : Instr} {s : State} {r x y : Reg} {v : Byte}

theorem ignores_of_writes_none (hwrites : regWrites i = [])
    (h : exec i (s.setReg r v) = mapNext (fun t => t.setReg r v) (exec i s)) : Ignores i s r v :=
  ⟨fun _ => h, fun hr => absurd hr (by simp [hwrites])⟩

/-- A form that faults in both states. -/
theorem ignores_of_raise {k : FaultKind} (h : exec i s = .next (s.raise k))
    (h' : exec i (s.setReg r v) = .next ((s.setReg r v).raise k)) : Ignores i s r v := by
  rw [Ignores, h, h']
  refine ⟨fun _ => rfl, fun _ t ht hrun => ?_⟩
  cases ht
  exact absurd rfl (hrun k)

/-- A form that writes one register, after an update `u` that leaves the changed register. -/
theorem ignores_of_setReg {u : State} {b : Byte} (hwrites : regWrites i = [x]) (h : exec i s = .next (u.setReg x b))
    (h' : exec i (s.setReg r v) = .next ((u.setReg r v).setReg x b)) : Ignores i s r v := by
  rw [Ignores, hwrites, List.mem_singleton, h, h']
  refine ⟨fun hr => congrArg _ (u.setReg_comm x r b v hr), ?_⟩
  rintro rfl t ht _
  rw [State.setReg_setReg_self, ht]

/-- A form that writes a result and a flag. -/
theorem ignores_of_setReg_setReg {a b : Byte} (hwrites : regWrites i = [x, y])
    (h : exec i s = .next ((s.setReg x a).setReg y b))
    (h' : exec i (s.setReg r v) = .next (((s.setReg r v).setReg x a).setReg y b)) : Ignores i s r v := by
  rw [Ignores, hwrites, h, h']
  by_cases hx : r = x
  · subst hx
    rw [State.setReg_setReg_self]
    exact ⟨fun hr => absurd List.mem_cons_self hr, fun _ t ht _ => ht⟩
  · rw [s.setReg_comm x r a v hx]
    by_cases hy : r = y
    · subst hy
      rw [State.setReg_setReg_self]
      exact ⟨fun hr => absurd (by simp) hr, fun _ t ht _ => ht⟩
    · exact ⟨fun _ => congrArg _ (State.setReg_comm _ y r b v hy), fun hr => absurd hr (by simp [hx, hy])⟩

theorem ignores_of_arith {f : Byte → Byte → Byte} (hwrites : regWrites i = [x])
    (hexec : ∀ u, exec i u = .next (u.arith x y f))
    (hf : f ((s.setReg r v).reg x) ((s.setReg r v).reg y) = f (s.reg x) (s.reg y)) : Ignores i s r v := by
  rcases s.arith_cases x y f with ⟨hx, hp, e⟩ | ⟨hok, e⟩ <;>
    rcases (s.setReg r v).arith_cases x y f with ⟨hx', hp', e'⟩ | ⟨hok', e'⟩
  · exact ignores_of_raise ((hexec s).trans (congrArg _ e)) ((hexec _).trans (congrArg _ e'))
  · exact absurd ⟨hx, hp⟩ hok'
  · exact absurd ⟨hx', hp'⟩ hok
  · rw [hf] at e'
    exact ignores_of_setReg hwrites ((hexec s).trans (congrArg _ e)) ((hexec _).trans (congrArg _ e'))

theorem ignores_of_arithFlag {f : Byte → Byte → Byte} {flag : Byte → Byte → Bool} (hwrites : regWrites i = [x, 15])
    (hexec : ∀ u, exec i u = .next (u.arithFlag x y f flag))
    (hf : f ((s.setReg r v).reg x) ((s.setReg r v).reg y) = f (s.reg x) (s.reg y))
    (hflag : flag ((s.setReg r v).reg x) ((s.setReg r v).reg y) = flag (s.reg x) (s.reg y)) : Ignores i s r v := by
  rcases s.arithFlag_cases x y f flag with ⟨hx, hp, e⟩ | ⟨hok, e⟩ <;>
    rcases (s.setReg r v).arithFlag_cases x y f flag with ⟨hx', hp', e'⟩ | ⟨hok', e'⟩
  · exact ignores_of_raise ((hexec s).trans (congrArg _ e)) ((hexec _).trans (congrArg _ e'))
  · exact absurd ⟨hx, hp⟩ hok'
  · exact absurd ⟨hx', hp'⟩ hok
  · rw [hf, hflag] at e'
    exact ignores_of_setReg_setReg hwrites ((hexec s).trans (congrArg _ e)) ((hexec _).trans (congrArg _ e'))

end Forms

/-! ### The forms with a meaning of their own -/

theorem ret_ignores (s : State) (r : Reg) (v : Byte) : Ignores .ret s r v := by
  refine ignores_of_writes_none rfl ?_
  by_cases h : s.sp.val = 0
  · rw [exec_ret_of_empty h, exec_ret_of_empty (s := s.setReg r v) h]
    rfl
  · rw [exec_ret_of_live h, exec_ret_of_live (s := s.setReg r v) h]
    rfl

theorem call_ignores (nnn : Addr12) (s : State) (r : Reg) (v : Byte) : Ignores (.call nnn) s r v := by
  refine ignores_of_writes_none rfl ?_
  rcases Nat.lt_or_ge s.sp.val 16 with hsp | hsp
  · rcases Nat.lt_or_ge 4094 nnn.toNat with hn | hn
    · rw [exec_call_of_gt hsp hn, exec_call_of_gt (s := s.setReg r v) hsp hn]
      rfl
    · rw [exec_call_of_le hsp hn, exec_call_of_le (s := s.setReg r v) hsp hn]
      rfl
  · rw [exec_call_of_full nnn hsp, exec_call_of_full nnn (s := s.setReg r v) hsp]
    rfl

theorem loadIndexFont_ignores {x r : Reg} (s : State) (v : Byte)
    (hread : (s.setReg r v).reg x = s.reg x) : Ignores (.loadIndexFont x) s r v := by
  refine ignores_of_writes_none rfl ?_
  rcases Nat.lt_or_ge 15 (s.reg x).toNat with h | h
  · rw [exec_loadIndexFont_of_gt h, exec_loadIndexFont_of_gt (hread ▸ h)]
    rfl
  · rw [exec_loadIndexFont_of_digit ⟨(s.reg x).toNat, by omega⟩ rfl,
      exec_loadIndexFont_of_digit ⟨(s.reg x).toNat, by omega⟩ (congrArg _ hread)]
    rfl

theorem draw_ignores {x y r : Reg} (n : Nat) (s : State) (v : Byte) (hx : x ≠ r) (hy : y ≠ r) :
    Ignores (.draw x y n) s r v := by
  rcases Nat.lt_or_ge 4096 (s.index.toNat + n) with h | h
  · exact ignores_of_raise (exec_draw_of_gt x y h) (exec_draw_of_gt x y h)
  · refine ignores_of_setReg rfl (exec_draw x y n s h) ((exec_draw x y n (s.setReg r v) h).trans ?_)
    rw [State.drawn, s.drawing_setReg_ne v hx hy]
    rfl

theorem loadRegisters_ignores (x : Reg) (s : State) (r : Reg) (v : Byte) : Ignores (.loadRegisters x) s r v := by
  rcases s.loadFromIndex_cases x with ⟨hle, e⟩ | ⟨hgt, e⟩
  · rcases (s.setReg r v).loadFromIndex_cases x with ⟨_, e'⟩ | ⟨hgt', _⟩
    · rw [Ignores, exec_loadRegisters, exec_loadRegisters, e, e', State.setReg_mem, State.setReg_index]
      have hlen := Memory.length_readBytes s.mem (x.val + 1) s.index.toNat
      simp only [regWrites, mem_regsTo_iff]
      refine ⟨fun hr => congrArg _ (s.writeRegs_setReg_above v (by omega)), fun hr t ht _ => ?_⟩
      rw [s.writeRegs_setReg_covered v (by omega), ht]
    · exact absurd hgt' (Nat.not_lt.mpr hle)
  · exact ignores_of_raise ((exec_loadRegisters x s).trans (congrArg _ e))
      ((exec_loadRegisters x _).trans (congrArg _ (State.loadFromIndex_of_gt (s := s.setReg r v) hgt)))

/-- Settles O54: a form reads the registers of its row through `State.reg`, which another register's value does not reach, and
every update it makes commutes with a write to that register or overwrites it. -/
theorem registersAreReadAsTabled : Obligations.RegistersAreReadAsTabled := by
  intro i s r v hr
  have hread : ∀ q ∈ regReads i, (s.setReg r v).reg q = s.reg q := fun q hq =>
    s.reg_setReg_ne r q v (ne_of_mem_of_not_mem hq hr)
  change Ignores i s r v
  cases i with
  | ret => exact ret_ignores s r v
  | call nnn => exact call_ignores nnn s r v
  | loadIndexFont x => exact loadIndexFont_ignores s v (hread x (by simp [regReads]))
  | draw x y n =>
    obtain ⟨hx, hy⟩ : r ≠ x ∧ r ≠ y := by simpa [regReads] using hr
    exact draw_ignores n s v hx.symm hy.symm
  | loadRegisters x => exact loadRegisters_ignores x s r v
  | clearScreen | loadIndex _ | waitForKey _ => exact ignores_of_writes_none rfl rfl
  | jump nnn => exact ignores_of_writes_none rfl (congrArg _ (s.transfer_setReg v _))
  | jumpPlusV0 nnn =>
    refine ignores_of_writes_none rfl ?_
    rw [exec_jumpPlusV0, exec_jumpPlusV0, hread 0 (by simp [regReads]), s.transfer_setReg]
    rfl
  | skipEqConst x _ | skipNeConst x _ =>
    refine ignores_of_writes_none rfl ?_
    simp only [exec_skipEqConst, exec_skipNeConst, hread x (by simp [regReads]), s.skipIf_setReg, mapNext]
  | skipEqReg x y | skipNeReg x y =>
    refine ignores_of_writes_none rfl ?_
    simp only [exec_skipEqReg, exec_skipNeReg, hread x (by simp [regReads]), hread y (by simp [regReads]), s.skipIf_setReg,
      mapNext]
  | skipIfKeyDown x | skipIfKeyUp x =>
    have hx : r ≠ x := by simpa [regReads] using hr
    exact ignores_of_writes_none rfl (congrArg _ (s.skipOnKey_setReg_ne v hx.symm _))
  | loadConst x nn => exact ignores_of_setReg rfl (exec_loadConst x nn s) rfl
  | randomMasked x nn => exact ignores_of_setReg rfl (exec_randomMasked x nn s) rfl
  | loadFromDelayTimer x => exact ignores_of_setReg rfl (exec_loadFromDelayTimer x s) rfl
  | addConst x nn =>
    refine ignores_of_setReg rfl (exec_addConst x nn s) ?_
    rw [exec_addConst, hread x (by simp [regReads])]
  | copy x y => exact ignores_of_arith rfl (exec_copy x y) (hread y (by simp [regReads]))
  | bitOr x y | bitAnd x y | bitXor x y =>
    refine ignores_of_arith rfl (fun _ => rfl) ?_
    rw [hread x (by simp [regReads]), hread y (by simp [regReads])]
  | addWithCarry x y | subWithBorrow x y | subReverseWithBorrow x y =>
    refine ignores_of_arithFlag rfl (fun _ => rfl) ?_ ?_ <;>
      rw [hread x (by simp [regReads]), hread y (by simp [regReads])]
  | shiftRight x y | shiftLeft x y =>
    refine ignores_of_arithFlag rfl (fun _ => rfl) ?_ ?_ <;> simp only [hread y (by simp [regReads])]
  | addIndexFromReg x =>
    refine ignores_of_writes_none rfl ?_
    rw [exec_addIndexFromReg, exec_addIndexFromReg, hread x (by simp [regReads])]
    rfl
  | storeToDelayTimer x =>
    refine ignores_of_writes_none rfl ?_
    rw [exec_storeToDelayTimer, exec_storeToDelayTimer, hread x (by simp [regReads])]
    rfl
  | storeToSoundTimer x =>
    refine ignores_of_writes_none rfl ?_
    rw [exec_storeToSoundTimer, exec_storeToSoundTimer, hread x (by simp [regReads])]
    rfl
  | storeBcd x =>
    refine ignores_of_writes_none rfl ?_
    rw [exec_storeBcd, exec_storeBcd, hread x (by simp [regReads]), s.storeAtIndex_setReg]
    rfl
  | storeRegisters x =>
    have hx : x.val < r.val := by simpa [regReads, mem_regsTo_iff] using hr
    refine ignores_of_writes_none rfl ?_
    rw [exec_storeRegisters, exec_storeRegisters, s.regsUpTo_setReg_gt v hx, s.storeAtIndex_setReg]
    rfl

end Sys2Proof.Machine
end
